-- ==== Sys2Proof/Word.lean ====
section
/-! DEFINITION. The two word types of the engine: the byte, unit of every storage space (20_memory.md R50), and the
32-bit word of WRAP, COL and the Z85 accumulator (10_state.md R28, R33; 43_z85_decode.md R158). -/
namespace Sys2Proof

/-- A byte, an unsigned integer 0..255 (00_scope.md R12). -/
abbrev Byte := BitVec 8

/-- A 32-bit register, `WRAP_BITS` wide (00_scope.md R8). -/
abbrev Word := BitVec 32

end Sys2Proof
end

