-- ==== Sys2Proof/Config.lean ====
section
/-! DEFINITION. What an implementation fixes (00_scope.md R8): the three open parameters, which a model takes as an argument
(92_eei_decisions.md D7, D8, D13), and the default wrap column. The parameters stand in State (log 6); no step writes them
and every statement is about every allowed value. -/
namespace Sys2Proof

/-- The open parameters of 00_scope.md R8. -/
structure Params where
  /-- `ENC_CHUNK`, capacity of IBUF in encode mode; OPEN, a positive multiple of 60. -/
  encChunk : Nat
  /-- `DEC_CHUNK`, capacity of IBUF in decode mode; OPEN, any positive integer. -/
  decChunk : Nat
  /-- `B16_DECODE_LOWERCASE`, whether DEC.B16 accepts a..f; OPEN (30_encoding.md R85). -/
  b16DecodeLowercase : Bool
  deriving DecidableEq, Repr

/-- The values State.reset carries: the defaults the spec suggests for tests (92_eei_decisions.md D7, D8).
DESIGN CHOICE (log 6): the spec leaves the parameters open, and false for the third is the model's. -/
def Params.suggested : Params := { encChunk := 60, decChunk := 8, b16DecodeLowercase := false }

/-- `WRAP_DEFAULT`, the reset value of WRAP (00_scope.md R8, 10_state.md R28). -/
def wrapDefault : Word := 76#32

end Sys2Proof
end

