-- ==== Sys2Proof/Syntax.lean ====
section
/-! DEFINITION. What can be asked of the engine: the eight schemes and two modes (00_scope.md R2, 30_encoding.md R72), the
sixteen operations (00_scope.md R3, 30_encoding.md R75), the host's commands (44_stream_engine.md R190) and the session
notation (30_encoding.md R77). -/
namespace Sys2Proof

/-- The eight schemes, in the order of the configuration enumeration (00_scope.md R2). -/
inductive Scheme where
  | base64 | base64url | base32 | base32hex | base16 | base2msbf | base2lsbf | z85
  deriving DecidableEq, Repr

/-- The two modes of the configuration record (30_encoding.md R70). -/
inductive Mode where
  | encode | decode
  deriving DecidableEq, Repr

/-- The sixteen operations, one per row of opcode_table.json (30_encoding.md R75). `g` is the operand IGNORE_GARBAGE,
CTRL[4], which the encode operations ignore (R73). The other operand, WRAP, stands in its own register of State. -/
inductive Instr where
  /-- `ENC.B64`, CTRL[3:0] = 0x0 (40_radix_encode.md R104). -/
  | encB64 (g : Bool)
  /-- `ENC.B64URL`, CTRL[3:0] = 0x1 (R105). -/
  | encB64Url (g : Bool)
  /-- `ENC.B32`, CTRL[3:0] = 0x2 (R106). -/
  | encB32 (g : Bool)
  /-- `ENC.B32HEX`, CTRL[3:0] = 0x3 (R107). -/
  | encB32Hex (g : Bool)
  /-- `ENC.B16`, CTRL[3:0] = 0x4 (R108). -/
  | encB16 (g : Bool)
  /-- `ENC.B2MSBF`, CTRL[3:0] = 0x5 (R109). -/
  | encB2Msbf (g : Bool)
  /-- `ENC.B2LSBF`, CTRL[3:0] = 0x6 (R110). -/
  | encB2Lsbf (g : Bool)
  /-- `ENC.Z85`, CTRL[3:0] = 0x7 (41_z85_encode.md R121). -/
  | encZ85 (g : Bool)
  /-- `DEC.B64`, CTRL[3:0] = 0x8 (42_radix_decode.md R140). -/
  | decB64 (g : Bool)
  /-- `DEC.B64URL`, CTRL[3:0] = 0x9 (R141). -/
  | decB64Url (g : Bool)
  /-- `DEC.B32`, CTRL[3:0] = 0xA (R142). -/
  | decB32 (g : Bool)
  /-- `DEC.B32HEX`, CTRL[3:0] = 0xB (R143). -/
  | decB32Hex (g : Bool)
  /-- `DEC.B16`, CTRL[3:0] = 0xC (R144). -/
  | decB16 (g : Bool)
  /-- `DEC.B2MSBF`, CTRL[3:0] = 0xD (R145). -/
  | decB2Msbf (g : Bool)
  /-- `DEC.B2LSBF`, CTRL[3:0] = 0xE (R146). -/
  | decB2Lsbf (g : Bool)
  /-- `DEC.Z85`, CTRL[3:0] = 0xF (43_z85_decode.md R160). -/
  | decZ85 (g : Bool)
  deriving DecidableEq, Repr

/-- The registers a `CfgWrite` names (10_state.md R32). -/
inductive CfgReg where
  | ctrl | wrap
  deriving DecidableEq, Repr

/-- The registers the host can read (10_state.md R32, 44_stream_engine.md R190). -/
inductive HostReg where
  | status | ctrl | wrap
  deriving DecidableEq, Repr

/-- The host's commands (44_stream_engine.md R190). The value of a `CfgWrite` may be wider than the register
(10_state.md R29), so it is a number. -/
inductive HostCmd where
  | cfgWrite (r : CfgReg) (v : Nat)
  | start
  | reset
  | read (r : HostReg)
  deriving DecidableEq, Repr

/-- A session line `<mnemonic> [wrap=<n>] [ig]` (30_encoding.md R77); `ig` is the operand `g` of the operation. -/
structure SessionLine where
  op   : Instr
  wrap : Option Nat
  deriving DecidableEq, Repr

end Sys2Proof
end

