-- ==== Sys2Proof/WellFormed.lean ====
section
/-! DEFINITION. Which terms are legal: implementation parameters (70_reset_and_hazards.md R245), CTRL words
(30_encoding.md R76), session lines (R77) and operations. -/
namespace Sys2Proof

/-- A model must reject an ENC_CHUNK that is not a positive multiple of 60 and a DEC_CHUNK below 1 (R245). -/
def Params.wf (p : Params) : Bool :=
  decide (0 < p.encChunk) && decide (p.encChunk % 60 = 0) && decide (1 ≤ p.decChunk)

/-- CTRL[7:5] must be 0, the only illegal configuration (30_encoding.md R76 (a)). -/
def ctrlWordWf (c : Byte) : Bool := c.extractLsb' 5 3 == 0#3

/-- `wrap=<n>` needs `0 <= n < 2^32` (30_encoding.md R77; 93_implementation_defined.md U14). -/
def SessionLine.wf (l : SessionLine) : Bool :=
  match l.wrap with
  | none => true
  | some n => decide (n < 2 ^ 32)

/-- Every operation with either value of its operand is legal (30_encoding.md R76 (d): IGNORE_GARBAGE = 1 with
MODE = 0 is legal and without effect); the type `Instr` has no ill-formed term. -/
def Instr.wf (_ : Instr) : Bool := true

end Sys2Proof
end

