-- ==== Sys2Proof/Machine/State.lean ====
section
/-! DEFINITION. The state of one engine (10_state.md R20) with the host's side of its two streams, the reasons a step can
stop, and the state after reset (70_reset_and_hazards.md R240). -/
namespace Sys2Proof.Machine

/-- `PHASE` (10_state.md R24). The unreachable value 7 has no constructor (93_implementation_defined.md U11). -/
inductive Phase where
  | idle | fill | process | drain | finish | done | error
  deriving DecidableEq, Repr

/-- The closed list of error kinds (60_exceptions.md R210). `memoryExhausted` is never raised (R213). -/
inductive ErrorKind where
  | invalidInputSymbol | misalignedLength | memoryExhausted | ioReadError | ioWriteError | unsupportedScheme
  deriving DecidableEq, Repr

/-- What `InRead()` answers (00_scope.md R14). -/
inductive InItem where
  | byte (b : Byte) | eos | err
  deriving DecidableEq, Repr

/-- What `OutWrite(b)` answers (00_scope.md R14). -/
inductive OutAnswer where
  | ok | err
  deriving DecidableEq, Repr

/-- What happens next on the host's side: a command, or one engine step before the turn after it (log 3). -/
inductive HostTurn where
  | cmd (c : HostCmd) | engine
  deriving DecidableEq, Repr

/-- A buffer: (index, byte) cells, indexes strictly rising; an index not listed holds no value yet (log 8). -/
abbrev Memory := List Host.Cell

/-- The canonical form of a buffer: the listed indexes strictly rise. An unlisted index reads as no value, so no
entry can equal what it reads as. -/
abbrev Memory.wf (m : Memory) : Prop := (m.map Prod.fst).Pairwise (· < ·)

/-- Why the engine stops. None of these is an error of the spec: an error kind is an error entry, a next state
(60_exceptions.md R219; log 1). -/
inductive Fault where
  /-- PHASE = IDLE and no host command is pending: no step is enabled (44_stream_engine.md R171). Raised by `fetch` and
  by an operation's step in IDLE. Safe (log 5). -/
  | waitingForStart
  /-- PHASE = DONE, the successful end of a session, and no host command is pending (R182). Safe (log 5). -/
  | sessionDone
  /-- PHASE = ERROR, the failed end of a session, and no host command is pending (R182, R220): the fault outcome of
  00_scope.md R16. Safe (log 1, log 5). -/
  | sessionError
  /-- `InRead()` is not answered yet: the engine is blocked (44_stream_engine.md R188). Raised by the FILL step.
  Safe (log 4). -/
  | blockedInRead
  /-- `OutWrite(b)` is not answered yet: the engine is blocked (R188). Raised by DRAIN and FINISH. Safe (log 4). -/
  | blockedOutWrite
  /-- An index outside a buffer's capacity; no run reaches it (20_memory.md R66). Raised by PROCESS. Safe (log 13). -/
  | bufferBounds
  /-- A read of a buffer element nothing has written; no run reaches it (10_state.md R37). Raised by PROCESS and
  DRAIN. Safe (log 8). -/
  | unwrittenBuffer
  /-- ILEN above IN_CAP in FILL or OPOS above OLEN in DRAIN: no rule's precondition holds, and no run reaches it
  (10_state.md R34). Raised by FILL and DRAIN. Safe (log 13). -/
  | noEngineStep
  deriving DecidableEq, Repr

/-- What the model does not run. -/
inductive Refusal where
  /-- Raised by an arm of `exec` for an instruction that has no meaning yet; no arm does. Safe. -/
  | notModelled (mnemonic : String)
  /-- ENC_CHUNK or DEC_CHUNK is not allowed (70_reset_and_hazards.md R245: a model must reject it). Raised by `fetch`.
  Safe (log 7). -/
  | illegalParameters
  /-- CTRL[7:5] is not 0 in a phase of a session, which START rules out (30_encoding.md R76). Raised by `fetch`.
  Safe (log 13). -/
  | reservedConfiguration
  deriving DecidableEq, Repr

/-- The registers and buffers of 10_state.md R20, then the host's side of the streams, then the open parameters. -/
structure State where
  /-- `CTRL` (10_state.md R27). -/
  ctrl : BitVec 8
  /-- `WRAP` (10_state.md R28). -/
  wrap : BitVec 32
  /-- `PHASE` (10_state.md R24). -/
  phase : Phase
  /-- `EOS` (10_state.md R25). -/
  eos : Bool
  /-- `ERR`, none standing for 0 (10_state.md R30). -/
  err : Option ErrorKind
  /-- `COL` (10_state.md R33). -/
  col : BitVec 32
  /-- `IBUF` (10_state.md R34). -/
  ibuf : Memory
  /-- `ILEN` (10_state.md R34), an integer like OLEN, OPOS and CARRY_CNT (R20; log 11). -/
  ilen : Nat
  /-- `OBUF` (10_state.md R34). -/
  obuf : Memory
  /-- `OLEN` (10_state.md R34). -/
  olen : Nat
  /-- `OPOS` (10_state.md R34). -/
  opos : Nat
  /-- `CARRY`, 8 entries of 7 bits (10_state.md R35; log 11). -/
  carry : Vector (BitVec 7) 8
  /-- `CARRY_CNT` (10_state.md R35). -/
  carryCnt : Nat
  /-- The host's answers to the `InRead()` calls to come, in stream order (20_memory.md R50 (1)). -/
  input : List InItem
  /-- The host's answers to the `OutWrite` calls to come (00_scope.md R14). -/
  acks : List OutAnswer
  /-- The output stream: the bytes whose `OutWrite` was answered OK (20_memory.md R50 (2)). -/
  output : List Byte
  /-- The host's commands to come, with the engine steps between them (44_stream_engine.md R171; log 3). -/
  turns : List HostTurn
  /-- The values the host's reads were given (44_stream_engine.md R190). -/
  readback : List (HostReg × BitVec 32)
  /-- The open parameters of the implementation (00_scope.md R8; log 6); written by no step. -/
  params : Params
  deriving DecidableEq, Repr

/-- What a step answers. -/
abbrev Result := Host.Outcome State Fault Refusal

/-- CARRY after reset: unspecified in the spec (10_state.md R37); DESIGN CHOICE all 0, unsafe (log 10). -/
def carryAtReset : Vector (BitVec 7) 8 := ⟨⟨[0, 0, 0, 0, 0, 0, 0, 0]⟩, rfl⟩

/-- The machine right after RESET (70_reset_and_hazards.md R240), with nothing pending on the host's side (log 2). -/
def State.reset : State where
  ctrl := 0x00#8
  wrap := wrapDefault
  phase := .idle
  eos := false
  err := none
  col := 0#32
  ibuf := []
  ilen := 0
  obuf := []
  olen := 0
  opos := 0
  carry := carryAtReset
  carryCnt := 0
  input := []
  acks := []
  output := []
  turns := []
  readback := []
  params := Params.suggested

end Sys2Proof.Machine
end

