-- ==== Sys2Proof/Machine/Flags.lean ====
section
/-! DEFINITION. The one condition flag, EOS (10_state.md R25), the error codes (R30) and the STATUS view (R31). No operation
computes an arithmetic flag (R26). -/
namespace Sys2Proof.Machine

/-- EOS is set by the FILL step whose InRead() returns EOS (10_state.md R25). -/
def setEos (s : State) : State := { s with eos := true }

/-- Reset and START clear EOS (10_state.md R25). -/
def clearEos (s : State) : State := { s with eos := false }

/-- The chunk being processed is the final chunk iff EOS = 1 (10_state.md R25). -/
def finalChunk (s : State) : Bool := s.eos

/-- The value of PHASE (10_state.md R24). -/
def phaseCode : Phase → BitVec 3
  | .idle => 0#3
  | .fill => 1#3
  | .process => 2#3
  | .drain => 3#3
  | .finish => 4#3
  | .done => 5#3
  | .error => 6#3

/-- The code of an error kind (60_exceptions.md R210). -/
def errorCode : ErrorKind → BitVec 3
  | .invalidInputSymbol => 1#3
  | .misalignedLength => 2#3
  | .memoryExhausted => 3#3
  | .ioReadError => 4#3
  | .ioWriteError => 5#3
  | .unsupportedScheme => 6#3

/-- The value of ERR, 0 for none (10_state.md R30). -/
def errCode : Option ErrorKind → BitVec 3
  | none => 0#3
  | some k => errorCode k

/-- `STATUS`: PHASE in bits 2:0, EOS in bit 3, ERR in bits 6:4, bit 7 is 0 (10_state.md R31). -/
def statusByte (s : State) : Byte :=
  0#1 ++ errCode s.err ++ BitVec.ofBool s.eos ++ phaseCode s.phase

end Sys2Proof.Machine
end

