-- ==== Sys2Proof/Decode.lean ====
section
/-! DEFINITION. The CTRL word read as an operation and written back: format CFG, pattern `000gmsss`
(30_encoding.md R71, R72, R75). -/
namespace Sys2Proof

/-- Why a CTRL word is no operation. -/
inductive Reject where
  /-- CTRL[7:5] is not 0 (30_encoding.md R76 (a)); START raises UnsupportedScheme for it (60_exceptions.md R216). -/
  | reservedBits
  /-- CTRL[3:0] is in no row of the table; cannot happen, all sixteen codes are used (30_encoding.md R72). -/
  | noOperation
  deriving DecidableEq, Repr

/-- SCHEME = CTRL[2:0] (10_state.md R27). -/
def ctrlScheme (c : Byte) : BitVec 3 := c.extractLsb' 0 3

/-- MODE = CTRL[3] (10_state.md R27). -/
def ctrlMode (c : Byte) : Mode := if c.getLsbD 3 then .decode else .encode

/-- IGNORE_GARBAGE = CTRL[4], read as a Boolean (30_encoding.md R73). -/
def ctrlIgnoreGarbage (c : Byte) : Bool := c.getLsbD 4

/-- The reserved bits CTRL[7:5] (10_state.md R27). -/
def ctrlReserved (c : Byte) : BitVec 3 := c.extractLsb' 5 3

/-- CTRL[3:0], which alone selects the operation (30_encoding.md R74). -/
def ctrlOpcode (c : Byte) : BitVec 4 := c.extractLsb' 0 4

/-- The operation map of 30_encoding.md R75, row by row: CTRL[3:0] and the operation it selects. -/
def opTable : List (BitVec 4 × (Bool → Instr)) :=
  [ (0x0#4, .encB64), (0x1#4, .encB64Url), (0x2#4, .encB32), (0x3#4, .encB32Hex),
    (0x4#4, .encB16), (0x5#4, .encB2Msbf), (0x6#4, .encB2Lsbf), (0x7#4, .encZ85),
    (0x8#4, .decB64), (0x9#4, .decB64Url), (0xA#4, .decB32), (0xB#4, .decB32Hex),
    (0xC#4, .decB16), (0xD#4, .decB2Msbf), (0xE#4, .decB2Lsbf), (0xF#4, .decZ85) ]

/-- The operation a CTRL word selects, or why it selects none (30_encoding.md R75, R76). -/
def decode (c : Byte) : Except Reject Instr :=
  if ctrlReserved c ≠ 0#3 then .error .reservedBits
  else
    match opTable.lookup (ctrlOpcode c) with
    | some op => .ok (op (ctrlIgnoreGarbage c))
    | none => .error .noOperation

/-- CTRL[3:0] of each operation (30_encoding.md R75). -/
def opcode : Instr → BitVec 4
  | .encB64 _ => 0x0#4
  | .encB64Url _ => 0x1#4
  | .encB32 _ => 0x2#4
  | .encB32Hex _ => 0x3#4
  | .encB16 _ => 0x4#4
  | .encB2Msbf _ => 0x5#4
  | .encB2Lsbf _ => 0x6#4
  | .encZ85 _ => 0x7#4
  | .decB64 _ => 0x8#4
  | .decB64Url _ => 0x9#4
  | .decB32 _ => 0xA#4
  | .decB32Hex _ => 0xB#4
  | .decB16 _ => 0xC#4
  | .decB2Msbf _ => 0xD#4
  | .decB2Lsbf _ => 0xE#4
  | .decZ85 _ => 0xF#4

/-- The operand IGNORE_GARBAGE an operation carries (30_encoding.md R73). -/
def ignoreGarbageOf : Instr → Bool
  | .encB64 g | .encB64Url g | .encB32 g | .encB32Hex g => g
  | .encB16 g | .encB2Msbf g | .encB2Lsbf g | .encZ85 g => g
  | .decB64 g | .decB64Url g | .decB32 g | .decB32Hex g => g
  | .decB16 g | .decB2Msbf g | .decB2Lsbf g | .decZ85 g => g

/-- The CTRL word of an operation, `000gmsss` most significant bit first (30_encoding.md R71). -/
def encode (i : Instr) : Byte := 0#3 ++ BitVec.ofBool (ignoreGarbageOf i) ++ opcode i

/-- The operation read from an opcode-table word: the word is the CTRL register, 8 bits wide, bit 0 its least
significant bit. A number that does not fit CTRL is no operation. -/
def decodeTableWord (_nbits w : Nat) : Option Instr :=
  if w < 2 ^ 8 then (decode (BitVec.ofNat 8 w)).toOption else none

end Sys2Proof
end

