-- ==== Sys2Proof/Machine/Schemes.lean ====
section
/-! DEFINITION. The scheme descriptors and alphabets, the source's "pure data, no behavior beyond lookup"
(30_encoding.md R78 to R88), and the character classes of the decoders (R89 to R92). -/
namespace Sys2Proof.Machine

/-- The order of the symbols inside a block (20_memory.md R52, R53). -/
inductive BitOrder where
  | msbFirst | lsbFirst | bigEndian
  deriving DecidableEq, Repr

/-- A row of the table of 30_encoding.md R78. -/
structure Descriptor where
  /-- `SCHEME`. -/
  code : BitVec 3
  radix : Nat
  /-- `K`, bits per symbol; Z85 has none. -/
  bitsPerSymbol : Option Nat
  /-- `B`, input_block_bytes. -/
  inputBlockBytes : Nat
  /-- `S`, output_block_symbols. -/
  outputBlockSymbols : Nat
  padSymbol : Option Byte
  bitOrder : BitOrder
  /-- Strict length multiple of the input bytes on encode. -/
  strictEncode : Option Nat
  /-- Strict length multiple of the valid symbols on decode. -/
  strictDecode : Option Nat
  deriving DecidableEq, Repr

/-- `PAD`, the symbol `=` (00_scope.md R8, 30_encoding.md R89). -/
def padByte : Byte := 0x3D#8

/-- `NEWLINE`, the byte the line wrapper inserts (00_scope.md R8, 45_line_wrapper.md R205). -/
def newlineByte : Byte := 0x0A#8

/-- The carriage return of 30_encoding.md R90. -/
def carriageReturnByte : Byte := 0x0D#8

/-- The eight descriptors (30_encoding.md R78). -/
def descriptor : Scheme → Descriptor
  | .base64 => ⟨0, 64, some 6, 3, 4, some padByte, .msbFirst, none, none⟩
  | .base64url => ⟨1, 64, some 6, 3, 4, some padByte, .msbFirst, none, none⟩
  | .base32 => ⟨2, 32, some 5, 5, 8, some padByte, .msbFirst, none, none⟩
  | .base32hex => ⟨3, 32, some 5, 5, 8, some padByte, .msbFirst, none, none⟩
  | .base16 => ⟨4, 16, some 4, 1, 2, none, .msbFirst, none, none⟩
  | .base2msbf => ⟨5, 2, some 1, 1, 8, none, .msbFirst, none, some 8⟩
  | .base2lsbf => ⟨6, 2, some 1, 1, 8, none, .lsbFirst, none, some 8⟩
  | .z85 => ⟨7, 85, none, 4, 5, none, .bigEndian, some 4, some 5⟩

/-- `K(s)` (00_scope.md R15); Z85 has none and no rule asks for it, so 0 there is never used. -/
def symbolBits (s : Scheme) : Nat := (descriptor s).bitsPerSymbol.getD 0

/-- `B(s)` (00_scope.md R15). -/
def blockBytes (s : Scheme) : Nat := (descriptor s).inputBlockBytes

/-- `S(s)` (00_scope.md R15). -/
def groupSymbols (s : Scheme) : Nat := (descriptor s).outputBlockSymbols

/-- The radix of a scheme (30_encoding.md R78). -/
def radix (s : Scheme) : Nat := (descriptor s).radix

/-- `uses_padding` (30_encoding.md R78). -/
def usesPadding (s : Scheme) : Bool := (descriptor s).padSymbol.isSome

/-- The letters and digits base64 and base64url share, and their last two characters (30_encoding.md R81, R82). -/
def alphaBase64 (c62 c63 : Byte) (v : Nat) : Byte :=
  if v ≤ 25 then BitVec.ofNat 8 (0x41 + v)
  else if v ≤ 51 then BitVec.ofNat 8 (0x61 + (v - 26))
  else if v ≤ 61 then BitVec.ofNat 8 (0x30 + (v - 52))
  else if v = 62 then c62
  else c63

/-- Characters 62..84 of the Z85 alphabet, in order (30_encoding.md R87). -/
def z85Punctuation : List Byte :=
  [0x2E, 0x2D, 0x3A, 0x2B, 0x3D, 0x5E, 0x21, 0x2F, 0x2A, 0x3F, 0x26, 0x3C,
   0x3E, 0x28, 0x29, 0x5B, 0x5D, 0x7B, 0x7D, 0x40, 0x25, 0x24, 0x23]

/-- The Z85 alphabet (30_encoding.md R87). -/
def alphaZ85 (v : Nat) : Byte :=
  if v ≤ 9 then BitVec.ofNat 8 (0x30 + v)
  else if v ≤ 35 then BitVec.ofNat 8 (0x61 + (v - 10))
  else if v ≤ 61 then BitVec.ofNat 8 (0x41 + (v - 36))
  else z85Punctuation.getD (v - 62) 0

/-- `Alpha(s, v)`, the character of symbol value `v` (30_encoding.md R81 to R87). It is defined for `v < radix s`
only (R80); no rule applies it to another value. -/
def alpha (s : Scheme) (v : Nat) : Byte :=
  match s with
  | .base64 => alphaBase64 0x2B 0x2F v
  | .base64url => alphaBase64 0x2D 0x5F v
  | .base32 => if v ≤ 25 then BitVec.ofNat 8 (0x41 + v) else BitVec.ofNat 8 (0x32 + (v - 26))
  | .base32hex => if v ≤ 9 then BitVec.ofNat 8 (0x30 + v) else BitVec.ofNat 8 (0x41 + (v - 10))
  | .base16 => if v ≤ 9 then BitVec.ofNat 8 (0x30 + v) else BitVec.ofNat 8 (0x41 + (v - 10))
  | .base2msbf => BitVec.ofNat 8 (0x30 + v)
  | .base2lsbf => BitVec.ofNat 8 (0x30 + v)
  | .z85 => alphaZ85 v

/-- The value of a byte in the range `lo..hi`, counted from `base` at `lo`. -/
def rangeValue (c : Byte) (lo hi base : Nat) : Option Nat :=
  if lo ≤ c.toNat ∧ c.toNat ≤ hi then some (c.toNat - lo + base) else none

/-- Position in the base64 or base64url alphabet (30_encoding.md R81, R82). -/
def lookupBase64 (c62 c63 c : Byte) : Option Nat :=
  rangeValue c 0x41 0x5A 0 <|> rangeValue c 0x61 0x7A 26 <|> rangeValue c 0x30 0x39 52 <|>
    (if c = c62 then some 62 else if c = c63 then some 63 else none)

/-- The 93-entry Z85 decode table, entry `c - 33` for the byte `c`; none is a reserved position (30_encoding.md R88). -/
def z85Table : List (Option Nat) :=
  [some 68, none, some 84, some 83, some 82, some 72, none, some 75, some 76, some 70, some 65, none, some 63,
    some 62, some 69] ++
  [some 0, some 1, some 2, some 3, some 4, some 5, some 6, some 7, some 8, some 9, some 64, none, some 73,
    some 66, some 74, some 71] ++
  [some 81, some 36, some 37, some 38, some 39, some 40, some 41, some 42, some 43, some 44, some 45, some 46,
    some 47, some 48, some 49, some 50] ++
  [some 51, some 52, some 53, some 54, some 55, some 56, some 57, some 58, some 59, some 60, some 61, some 77,
    none, some 78, some 67, none] ++
  [none, some 10, some 11, some 12, some 13, some 14, some 15, some 16, some 17, some 18, some 19, some 20,
    some 21, some 22] ++
  [some 23, some 24, some 25, some 26, some 27, some 28, some 29, some 30, some 31, some 32, some 33, some 34,
    some 35] ++
  [some 79, none, some 80]

/-- Position in the Z85 alphabet (30_encoding.md R88). -/
def lookupZ85 (c : Byte) : Option Nat :=
  if c.toNat < 33 ∨ 125 < c.toNat then none else z85Table.getD (c.toNat - 33) none

/-- Hex-digit parsing; `lower` is B16_DECODE_LOWERCASE (30_encoding.md R85). -/
def lookupBase16 (lower : Bool) (c : Byte) : Option Nat :=
  rangeValue c 0x30 0x39 0 <|> rangeValue c 0x41 0x46 10 <|>
    (if lower then rangeValue c 0x61 0x66 10 else none)

/-- `Lookup(s, c)`, the symbol value of a byte, or none for `invalid` (30_encoding.md R80). -/
def lookup (lower : Bool) (s : Scheme) (c : Byte) : Option Nat :=
  match s with
  | .base64 => lookupBase64 0x2B 0x2F c
  | .base64url => lookupBase64 0x2D 0x5F c
  | .base32 => rangeValue c 0x41 0x5A 0 <|> rangeValue c 0x32 0x37 26
  | .base32hex => rangeValue c 0x30 0x39 0 <|> rangeValue c 0x41 0x56 10
  | .base16 => lookupBase16 lower c
  | .base2msbf => rangeValue c 0x30 0x31 0
  | .base2lsbf => rangeValue c 0x30 0x31 0
  | .z85 => lookupZ85 c

/-- The class of an input byte on decode (30_encoding.md R90, R91). -/
inductive CharClass where
  | nl | padch | sym (v : Nat) | inv
  deriving DecidableEq, Repr

/-- The one class of a byte, tested in the order of 30_encoding.md R90; Z85 has no padding class (R91). -/
def classify (lower : Bool) (s : Scheme) (c : Byte) : CharClass :=
  if c = newlineByte ∨ c = carriageReturnByte then .nl
  else if s ≠ .z85 ∧ c = padByte then .padch
  else
    match lookup lower s c with
    | some v => .sym v
    | none => .inv

end Sys2Proof.Machine
end

