-- ==== Sys2Proof/Machine/Pack.lean ====
section
/-! DEFINITION. The encode side at the functional level: the radix-2^n packer (40_radix_encode.md R100 to R103) and the Z85
packer (41_z85_encode.md R120 to R123). -/
namespace Sys2Proof.Machine

/-- The unsigned integer whose base-256 digits are the bytes, first byte most significant (R101, R121). -/
def bytesValue (bs : List Byte) : Nat := bs.foldl (fun v b => v * 256 + b.toNat) 0

/-- The symbol values of a full sub-block: MSB-first by R101, base2lsbf by R102. -/
def blockSymbols (s : Scheme) (blk : List Byte) : List Nat :=
  match (descriptor s).bitOrder with
  | .lsbFirst => (List.range (groupSymbols s)).map fun i => bytesValue blk / 2 ^ i % 2
  | _ => (List.range (groupSymbols s)).map fun i =>
      bytesValue blk / 2 ^ (symbolBits s * (groupSymbols s - 1 - i)) % 2 ^ symbolBits s

/-- `PackFull(s, blk)` (R101, R102). -/
def packFull (s : Scheme) (blk : List Byte) : List Byte := (blockSymbols s blk).map (alpha s)

/-- `nd = ceil(8*r / K)`, the symbols that carry at least one bit of `r` bytes (R103). -/
def dataSymbols (s : Scheme) (r : Nat) : Nat := (8 * r + symbolBits s - 1) / symbolBits s

/-- `PackPartial(s, blk)`: zero bytes fill the block, the symbols without data are `=` (R103). -/
def packPartial (s : Scheme) (blk : List Byte) : List Byte :=
  let full := blk ++ List.replicate (blockBytes s - blk.length) 0#8
  let nd := dataSymbols s blk.length
  ((blockSymbols s full).take nd).map (alpha s) ++ List.replicate (groupSymbols s - nd) padByte

/-- Bytes `j*B .. j*B+B-1` of `data` (R100). -/
def subBlock (b j : Nat) (data : List Byte) : List Byte := (data.drop (j * b)).take b

/-- `EncRadix(s, data)`: the full sub-blocks in order, then the partial one if there is one (R100). -/
def encRadix (s : Scheme) (data : List Byte) : List Byte :=
  let b := blockBytes s
  let q := data.length / b
  (List.range q).flatMap (fun j => packFull s (subBlock b j data)) ++
    (if 0 < data.length % b then packPartial s (data.drop (q * b)) else [])

/-- The five base-85 digits of a value, highest order first (41_z85_encode.md R121). -/
def z85Digits (v : Nat) : List Nat := (List.range 5).map fun i => v / 85 ^ (4 - i) % 85

/-- The five symbols of a four-byte group (R121). -/
def packZ85 (blk : List Byte) : List Byte := (z85Digits (bytesValue blk)).map alphaZ85

/-- `EncZ85(data)` (R120, R121). -/
def encZ85 (data : List Byte) : Except ErrorKind (List Byte) :=
  if data.length % 4 ≠ 0 then .error .misalignedLength
  else .ok ((List.range (data.length / 4)).flatMap fun j => packZ85 (subBlock 4 j data))

end Sys2Proof.Machine
end

