-- ==== Sys2Proof/Machine/Unpack.lean ====
section
/-! DEFINITION. The decode side at the functional level: the scan with its group (42_radix_decode.md R130 to R135,
43_z85_decode.md R156), the unpackers (R136, R137, R158) and the rule at the end of the input (R135, R138, R139, R157). -/
namespace Sys2Proof.Machine

/-- The integer whose base-2^k digits are the symbol values, first most significant (42_radix_decode.md R136, R137). -/
def symbolsValue (k : Nat) (grp : List Nat) : Nat := grp.foldl (fun v x => v * 2 ^ k + x) 0

/-- The integer whose binary digits are the symbol values, first symbol bit 0 (R136, base2lsbf). -/
def lsbValue : List Nat → Nat
  | [] => 0
  | x :: xs => x + 2 * lsbValue xs

/-- The 32-bit accumulator after the digits, reduced modulo 2^32 at every step (43_z85_decode.md R158, R159). -/
def z85Accumulate (digits : List Nat) : Word :=
  digits.foldl (fun acc d => acc * 85#32 + BitVec.ofNat 32 d) 0#32

/-- `Unpack5(d)`: the accumulator's bytes, big-endian (R158). -/
def unpack5 (digits : List Nat) : List Byte :=
  let acc := z85Accumulate digits
  [acc.extractLsb' 24 8, acc.extractLsb' 16 8, acc.extractLsb' 8 8, acc.extractLsb' 0 8]

/-- The bytes of a full group: `UnpackFull` by 42_radix_decode.md R136, `Unpack5` for Z85. -/
def unpackGroup (s : Scheme) (grp : List Nat) : List Byte :=
  match (descriptor s).bitOrder with
  | .msbFirst => (List.range (blockBytes s)).map fun i =>
      BitVec.ofNat 8 (symbolsValue (symbolBits s) grp / 2 ^ (8 * (blockBytes s - 1 - i)))
  | .lsbFirst => [BitVec.ofNat 8 (lsbValue grp)]
  | .bigEndian => unpack5 grp

/-- `UnpackPartial(s, grp)`: the `floor(n*K/8)` bytes the symbols fully determine (R137). -/
def unpackPartial (s : Scheme) (grp : List Nat) : List Byte :=
  let bits := grp.length * symbolBits s
  (List.range (bits / 8)).map fun i =>
    BitVec.ofNat 8 (symbolsValue (symbolBits s) grp / 2 ^ (bits - 8 * (i + 1)))

/-- One pass over the text: the group left over and the bytes of the full groups, or the error that ended it
(42_radix_decode.md R130 to R134, 43_z85_decode.md R156). `g` is IGNORE_GARBAGE, `lower` is B16_DECODE_LOWERCASE and
`grp` the group in progress before the text. -/
def scan (lower : Bool) (s : Scheme) (g : Bool) : List Nat → List Byte → Except ErrorKind (List Nat × List Byte)
  | grp, [] => .ok (grp, [])
  | grp, c :: cs =>
    match classify lower s c with
    | .nl => scan lower s g grp cs
    | .padch => scan lower s g grp cs
    | .inv => if g then scan lower s g grp cs else .error .invalidInputSymbol
    | .sym v =>
      if grp.length + 1 = groupSymbols s then
        match scan lower s g [] cs with
        | .ok (left, out) => .ok (left, unpackGroup s (grp ++ [v]) ++ out)
        | .error k => .error k
      else scan lower s g (grp ++ [v]) cs

/-- The bytes of the group left over at true end-of-stream, or MisalignedLength (R135, R138, R139; R157). -/
def finishGroup (s : Scheme) (grp : List Nat) : Except ErrorKind (List Byte) :=
  if grp = [] then .ok []
  else
    match s with
    | .base2msbf | .base2lsbf | .z85 => .error .misalignedLength
    | .base16 => .ok []
    | .base64 | .base64url | .base32 | .base32hex => .ok (unpackPartial s grp)

/-- `DecRadix(s, g, text)` and, for z85, `DecZ85(g, text)` (42_radix_decode.md R130, 43_z85_decode.md R156). -/
def decodeText (lower : Bool) (s : Scheme) (g : Bool) (text : List Byte) : Except ErrorKind (List Byte) :=
  match scan lower s g [] text with
  | .error k => .error k
  | .ok (left, out) =>
    match finishGroup s left with
    | .error k => .error k
    | .ok tail => .ok (out ++ tail)

end Sys2Proof.Machine
end

