-- ==== Sys2Proof/Machine/LineWrapper.lean ====
section
/-! DEFINITION. The line wrapper's function (45_line_wrapper.md R206) and the functional result of a session
(44_stream_engine.md R185). -/
namespace Sys2Proof.Machine

/-- `Wrap(w, syms)`: lines of `w` symbols, each followed by a newline; nothing is inserted for `w = 0` (R206). -/
def wrapText (w : Nat) (syms : List Byte) : List Byte :=
  if w = 0 then syms
  else (List.range ((syms.length + w - 1) / w)).flatMap fun j => (syms.drop (j * w)).take w ++ [newlineByte]

/-- The scheme an operation packs or unpacks (30_encoding.md R75). -/
def schemeOf : Instr → Scheme
  | .encB64 _ | .decB64 _ => .base64
  | .encB64Url _ | .decB64Url _ => .base64url
  | .encB32 _ | .decB32 _ => .base32
  | .encB32Hex _ | .decB32Hex _ => .base32hex
  | .encB16 _ | .decB16 _ => .base16
  | .encB2Msbf _ | .decB2Msbf _ => .base2msbf
  | .encB2Lsbf _ | .decB2Lsbf _ => .base2lsbf
  | .encZ85 _ | .decZ85 _ => .z85

/-- The mode of an operation (30_encoding.md R75). -/
def modeOf : Instr → Mode
  | .encB64 _ | .encB64Url _ | .encB32 _ | .encB32Hex _ => .encode
  | .encB16 _ | .encB2Msbf _ | .encB2Lsbf _ | .encZ85 _ => .encode
  | .decB64 _ | .decB64Url _ | .decB32 _ | .decB32Hex _ => .decode
  | .decB16 _ | .decB2Msbf _ | .decB2Lsbf _ | .decZ85 _ => .decode

/-- The symbols of a whole input, or the error (40_radix_encode.md R100, 41_z85_encode.md R120, R121). -/
def encodeSymbols (s : Scheme) (data : List Byte) : Except ErrorKind (List Byte) :=
  match s with
  | .z85 => encZ85 data
  | _ => .ok (encRadix s data)

/-- The functional result of a session over the whole input (44_stream_engine.md R185). -/
def sessionResult (lower : Bool) (w : Word) (i : Instr) (inp : List Byte) : Except ErrorKind (List Byte) :=
  match modeOf i with
  | .encode =>
    match encodeSymbols (schemeOf i) inp with
    | .ok syms => .ok (wrapText w.toNat syms)
    | .error k => .error k
  | .decode => decodeText lower (schemeOf i) (ignoreGarbageOf i) inp

end Sys2Proof.Machine
end

