-- ==== Sys2Proof/Machine/Operands.lean ====
section
/-! DEFINITION. The operands of an operation as the state holds them: the wrap column and the configuration fields
(30_encoding.md R73), the capacities (00_scope.md R8), the chunk in IBUF and the group in CARRY (10_state.md R34, R35). -/
namespace Sys2Proof.Machine

/-- `OBUF_CAP = max(8*ENC_CHUNK, DEC_CHUNK + 8)` (00_scope.md R8). -/
def obufCap (p : Params) : Nat := max (8 * p.encChunk) (p.decChunk + 8)

/-- `IN_CAP`: ENC_CHUNK when MODE = 0, DEC_CHUNK when MODE = 1 (10_state.md R20). -/
def inCap (p : Params) : Mode → Nat
  | .encode => p.encChunk
  | .decode => p.decChunk

/-- Wrapping is enabled: WRAP_COLUMN read as an unsigned integer is not 0 (30_encoding.md R73). -/
def wrapEnabled (s : State) : Bool := s.wrap != 0#32

/-- The line is full: wrapping is enabled and COL = WRAP (45_line_wrapper.md R201). -/
def lineFull (s : State) : Bool := wrapEnabled s && s.col == s.wrap

/-- One element of a buffer; none where nothing has written it (00_scope.md R13 `MemRead`; log 8). -/
def readCell : Memory → Nat → Option Byte
  | [], _ => none
  | (k, b) :: rest, i => if k = i then some b else readCell rest i

/-- Elements `i .. i+n-1` of a buffer, one byte at a time (20_memory.md R56). -/
def readCells (m : Memory) (i : Nat) : Nat → Option (List Byte)
  | 0 => some []
  | n + 1 =>
    match readCell m i, readCells m (i + 1) n with
    | some b, some rest => some (b :: rest)
    | _, _ => none

/-- `IBUF[0 .. ILEN)`, the chunk a PROCESS step works on, under the bound ILEN <= IN_CAP (20_memory.md R66). -/
def chunkOf (cap : Nat) (s : State) : Except Fault (List Byte) :=
  if s.ilen ≤ cap then
    match readCells s.ibuf 0 s.ilen with
    | some data => .ok data
    | none => .error .unwrittenBuffer
  else .error .bufferBounds

/-- `CARRY[0 .. CARRY_CNT)`, the group in progress (44_stream_engine.md R176). -/
def carriedGroup (s : State) : List Nat := (s.carry.toList.take s.carryCnt).map BitVec.toNat

/-- `CARRY[0 .. len(grp)) <- grp`, the other entries as they were (44_stream_engine.md R176; log 9). -/
def storeCarry (c : Vector (BitVec 7) 8) (grp : List Nat) (h : grp.length < 8) : Vector (BitVec 7) 8 :=
  ⟨⟨grp.map (BitVec.ofNat 7) ++ c.toList.drop grp.length⟩, by simp; omega⟩

end Sys2Proof.Machine
end

