-- ==== Sys2Proof/Machine/Ops.lean ====
section
/-! DEFINITION. The shared operations: buffer writes, the error entry (60_exceptions.md R219) and RESET, the only way out of
it (R220), START and the other host commands (44_stream_engine.md R172, R190), and the steps of each phase (R173 to
R181). -/
namespace Sys2Proof.Machine

/-! Buffers. -/

/-- `buf[i] <- b`, one byte, the form of the buffer kept (00_scope.md R13 `MemWrite`). -/
def writeCell : Memory → Nat → Byte → Memory
  | [], i, b => [(i, b)]
  | (k, c) :: rest, i, b =>
    if i < k then (i, b) :: (k, c) :: rest
    else if i = k then (i, b) :: rest
    else (k, c) :: writeCell rest i b

/-- `buf[i .. i+len(bs)) <- bs`. -/
def writeCells (m : Memory) (i : Nat) : List Byte → Memory
  | [] => m
  | b :: bs => writeCells (writeCell m i b) (i + 1) bs

/-! Taking an error, and RESET. -/

/-- `PHASE <- p`. -/
def enterPhase (p : Phase) (s : State) : State := { s with phase := p }

/-- `raise K`: ERR <- code(K), PHASE <- ERROR, nothing else changes (60_exceptions.md R219). -/
def raise (k : ErrorKind) (s : State) : State := { s with err := some k, phase := .error }

/-- `RESET`: the engine is in the reset state; what the host has read, has still to give and has been given stays with
the host, and the implementation parameters stay (70_reset_and_hazards.md R241; log 12). -/
def resetEngine (s : State) : State :=
  { State.reset with
    input := s.input, acks := s.acks, output := s.output, turns := s.turns, readback := s.readback,
    params := s.params }

/-! Host commands (44_stream_engine.md R190). -/

/-- `CfgWrite(r, v)`: effective only in IDLE; a value wider than the register keeps its low bits (10_state.md R29). -/
def cfgWrite (r : CfgReg) (v : Nat) (s : State) : State :=
  match s.phase, r with
  | .idle, .ctrl => { s with ctrl := BitVec.ofNat 8 v }
  | .idle, .wrap => { s with wrap := BitVec.ofNat 32 v }
  | _, _ => s

/-- The clearing START does for a legal configuration (44_stream_engine.md R172). -/
def beginSession (s : State) : State :=
  { clearEos s with err := none, ilen := 0, olen := 0, opos := 0, col := 0#32, carryCnt := 0, phase := .fill }

/-- `START`: effective only in IDLE; reserved bits raise UnsupportedScheme (44_stream_engine.md R172,
60_exceptions.md R216). -/
def startSession (s : State) : State :=
  match s.phase with
  | .idle => if ctrlReserved s.ctrl ≠ 0#3 then raise .unsupportedScheme s else beginSession s
  | _ => s

/-- What a host read of a register gives (10_state.md R31, R32), as a 32-bit number. -/
def hostRead (r : HostReg) (s : State) : Word :=
  match r with
  | .status => (statusByte s).setWidth 32
  | .ctrl => s.ctrl.setWidth 32
  | .wrap => s.wrap

/-- A host command; a read has no effect but to give its value (10_state.md R31). -/
def hostCommand (c : HostCmd) (s : State) : State :=
  match c with
  | .cfgWrite r v => cfgWrite r v s
  | .start => startSession s
  | .reset => resetEngine s
  | .read r => { s with readback := s.readback ++ [(r, hostRead r s)] }

/-- The commands of a session line (30_encoding.md R77) in the order of the boot sequence (70_reset_and_hazards.md R243):
an ENC line without `wrap=` means 76, a DEC line without it leaves WRAP alone. -/
def bootCommands (l : SessionLine) : List HostCmd :=
  let wrapWrite : List HostCmd :=
    match l.wrap, modeOf l.op with
    | some n, _ => [.cfgWrite .wrap n]
    | none, .encode => [.cfgWrite .wrap wrapDefault.toNat]
    | none, .decode => []
  [.reset, .cfgWrite .ctrl (encode l.op).toNat] ++ wrapWrite ++ [.start]

/-! The streams (00_scope.md R14). -/

/-- The item InRead() returned is consumed: `rest` is still to come. -/
def consumeItem (rest : List InItem) (s : State) : State := { s with input := rest }

/-- OutWrite(b) returned OK: the byte is appended to the output stream. -/
def acceptByte (b : Byte) (rest : List OutAnswer) (s : State) : State :=
  { s with acks := rest, output := s.output ++ [b] }

/-- OutWrite returned ERR: the byte is not in the output stream (44_stream_engine.md R186). -/
def refuseByte (rest : List OutAnswer) (s : State) : State := { s with acks := rest }

/-- `r <- OutWrite(b)`: on OK the engine goes on with `onOk`, on ERR it raises IOWriteError (60_exceptions.md R215);
unanswered, it is blocked (44_stream_engine.md R188). -/
def outWrite (b : Byte) (onOk : State → State) (s : State) : Result :=
  match s.acks with
  | [] => .fault .blockedOutWrite
  | .ok :: rest => .next (onOk (acceptByte b rest s))
  | .err :: rest => .next (raise .ioWriteError (refuseByte rest s))

/-! FILL (44_stream_engine.md R173, R174). -/

/-- `IBUF[ILEN] <- b; ILEN <- ILEN + 1`. -/
def pushByte (b : Byte) (s : State) : State := { s with ibuf := writeCell s.ibuf s.ilen b, ilen := s.ilen + 1 }

/-- The FILL step (R173) and the end of FILL (R174), with IN_CAP = `cap`. -/
def fillStep (cap : Nat) (s : State) : Result :=
  if s.ilen < cap ∧ s.eos = false then
    match s.input with
    | [] => .fault .blockedInRead
    | .byte b :: rest => .next (pushByte b (consumeItem rest s))
    | .eos :: rest => .next (setEos (consumeItem rest s))
    | .err :: rest => .next (raise .ioReadError (consumeItem rest s))
  else if s.ilen = cap ∨ s.eos = true then .next (enterPhase .process s)
  else .fault .noEngineStep

/-! PROCESS (44_stream_engine.md R175, R176, R177). -/

/-- `OBUF[0 .. len(out)) <- out; OLEN <- len(out); OPOS <- 0; PHASE <- DRAIN`. -/
def commitOutput (out : List Byte) (s : State) : State :=
  { s with obuf := writeCells s.obuf 0 out, olen := out.length, opos := 0, phase := .drain }

/-- The commit under the bound of OBUF (20_memory.md R66). -/
def commitBounded (out : List Byte) (s : State) : Result :=
  if out.length ≤ obufCap s.params then .next (commitOutput out s) else .fault .bufferBounds

/-- PROCESS, encode (R175): the whole chunk is packed, or the error is raised and nothing of it is kept (R177). -/
def encodeProcess (pack : List Byte → Except ErrorKind (List Byte)) (s : State) : Result :=
  match chunkOf (inCap s.params .encode) s with
  | .error f => .fault f
  | .ok data =>
    match pack data with
    | .error k => .next (raise k s)
    | .ok syms => commitBounded syms s

/-- `CARRY[0 .. len(grp)) <- grp; CARRY_CNT <- len(grp)`. -/
def keepGroup (grp : List Nat) (h : grp.length < 8) (s : State) : State :=
  { s with carry := storeCarry s.carry grp h, carryCnt := grp.length }

/-- `CARRY_CNT <- 0`. -/
def clearCarry (s : State) : State := { s with carryCnt := 0 }

/-- PROCESS, decode (R176): the scan from the carried group, then the end rule on the final chunk or the carry on
another. -/
def decodeProcess (sc : Scheme) (g : Bool) (s : State) : Result :=
  match chunkOf (inCap s.params .decode) s with
  | .error f => .fault f
  | .ok data =>
    match scan s.params.b16DecodeLowercase sc g (carriedGroup s) data with
    | .error k => .next (raise k s)
    | .ok (grp, out) =>
      if finalChunk s then
        match finishGroup sc grp with
        | .error k => .next (raise k s)
        | .ok tail => commitBounded (out ++ tail) (clearCarry s)
      else if h : grp.length < 8 then commitBounded out (keepGroup grp h s)
      else .fault .bufferBounds

/-! DRAIN (44_stream_engine.md R178, R179, R180). -/

/-- `OPOS <- OPOS + 1`. -/
def advanceOpos (s : State) : State := { s with opos := s.opos + 1 }

/-- `if WRAP > 0 then COL <- COL + 1` (45_line_wrapper.md R201, R202). -/
def countSymbol (s : State) : State := if wrapEnabled s then { s with col := s.col + 1#32 } else s

/-- `COL <- 0`. -/
def clearCol (s : State) : State := { s with col := 0#32 }

/-- The end of DRAIN (R180). -/
def endDrain (s : State) : State :=
  if s.eos then enterPhase .finish s else { s with ilen := 0, phase := .fill }

/-- `OutWrite(OBUF[OPOS])`, going on with `onOk`. -/
def writeNext (onOk : State → State) (s : State) : Result :=
  match readCell s.obuf s.opos with
  | some b => outWrite b onOk s
  | none => .fault .unwrittenBuffer

/-- One output byte of DRAIN, decode (R178). -/
def drainByteDecode (s : State) : Result := writeNext advanceOpos s

/-- One output byte of DRAIN, encode, through the line wrapper (R179, 45_line_wrapper.md R201). -/
def drainByteEncode (s : State) : Result :=
  if lineFull s then outWrite newlineByte clearCol s else writeNext (fun t => countSymbol (advanceOpos t)) s

/-- DRAIN: one output byte while OPOS < OLEN, then its end. -/
def drainStep (byteStep : State → Result) (s : State) : Result :=
  if s.opos < s.olen then byteStep s
  else if s.opos = s.olen then .next (endDrain s)
  else .fault .noEngineStep

/-! FINISH (44_stream_engine.md R181). -/

/-- FINISH, encode: the trailing newline where the line is not empty (R181, 45_line_wrapper.md R203). -/
def finishEncode (s : State) : Result :=
  if wrapEnabled s && s.col != 0#32 then outWrite newlineByte (fun t => enterPhase .done (clearCol t)) s
  else .next (enterPhase .done s)

/-- FINISH, decode: no I/O (R181). -/
def finishDecode (s : State) : Result := .next (enterPhase .done s)

/-! The engine step of an operation, by phase (44_stream_engine.md R171). -/

/-- The engine step of an encode operation whose packer is `pack`. -/
def encodeStep (pack : List Byte → Except ErrorKind (List Byte)) (s : State) : Result :=
  match s.phase with
  | .idle => .fault .waitingForStart
  | .fill => fillStep (inCap s.params .encode) s
  | .process => encodeProcess pack s
  | .drain => drainStep drainByteEncode s
  | .finish => finishEncode s
  | .done => .fault .sessionDone
  | .error => .fault .sessionError

/-- The engine step of a decode operation of scheme `sc`, with IGNORE_GARBAGE = `g`. -/
def decodeStep (sc : Scheme) (g : Bool) (s : State) : Result :=
  match s.phase with
  | .idle => .fault .waitingForStart
  | .fill => fillStep (inCap s.params .decode) s
  | .process => decodeProcess sc g s
  | .drain => drainStep drainByteDecode s
  | .finish => finishDecode s
  | .done => .fault .sessionDone
  | .error => .fault .sessionError

end Sys2Proof.Machine
end

