-- ==== Sys2Proof/Machine/RadixDecode.lean ====
section
/-! DEFINITION. The seven radix-2^n decode operations (42_radix_decode.md R140 to R146). WRAP has no effect on them (30_encoding.md R73). Each meaning is one engine step of the operation
in the phase the state is in (44_stream_engine.md R171). -/
namespace Sys2Proof.Machine

/-- `DEC.B64` (R140). -/
def execDecB64 (g : Bool) (s : State) : Result := decodeStep .base64 g s

/-- `DEC.B64URL` (R141). -/
def execDecB64Url (g : Bool) (s : State) : Result := decodeStep .base64url g s

/-- `DEC.B32` (R142). -/
def execDecB32 (g : Bool) (s : State) : Result := decodeStep .base32 g s

/-- `DEC.B32HEX` (R143). -/
def execDecB32Hex (g : Bool) (s : State) : Result := decodeStep .base32hex g s

/-- `DEC.B16` (R144). -/
def execDecB16 (g : Bool) (s : State) : Result := decodeStep .base16 g s

/-- `DEC.B2MSBF` (R145). -/
def execDecB2Msbf (g : Bool) (s : State) : Result := decodeStep .base2msbf g s

/-- `DEC.B2LSBF` (R146). -/
def execDecB2Lsbf (g : Bool) (s : State) : Result := decodeStep .base2lsbf g s

end Sys2Proof.Machine
end

