-- ==== Sys2Proof/Machine/RadixEncode.lean ====
section
/-! DEFINITION. The seven radix-2^n encode operations (40_radix_encode.md R104 to R110). IGNORE_GARBAGE has no effect on them (30_encoding.md R73). Each meaning is one engine step of the operation
in the phase the state is in (44_stream_engine.md R171). -/
namespace Sys2Proof.Machine

/-- `ENC.B64` (R104). -/
def execEncB64 (_g : Bool) (s : State) : Result := encodeStep (fun data => .ok (encRadix .base64 data)) s

/-- `ENC.B64URL` (R105). -/
def execEncB64Url (_g : Bool) (s : State) : Result := encodeStep (fun data => .ok (encRadix .base64url data)) s

/-- `ENC.B32` (R106). -/
def execEncB32 (_g : Bool) (s : State) : Result := encodeStep (fun data => .ok (encRadix .base32 data)) s

/-- `ENC.B32HEX` (R107). -/
def execEncB32Hex (_g : Bool) (s : State) : Result := encodeStep (fun data => .ok (encRadix .base32hex data)) s

/-- `ENC.B16` (R108). -/
def execEncB16 (_g : Bool) (s : State) : Result := encodeStep (fun data => .ok (encRadix .base16 data)) s

/-- `ENC.B2MSBF` (R109). -/
def execEncB2Msbf (_g : Bool) (s : State) : Result := encodeStep (fun data => .ok (encRadix .base2msbf data)) s

/-- `ENC.B2LSBF` (R110). -/
def execEncB2Lsbf (_g : Bool) (s : State) : Result := encodeStep (fun data => .ok (encRadix .base2lsbf data)) s

end Sys2Proof.Machine
end

