-- ==== Sys2Proof/Machine/Z85Decode.lean ====
section
/-! DEFINITION. The Z85 decode operation (43_z85_decode.md R160). WRAP has no effect on it (30_encoding.md R73). Each meaning is one engine step of the operation
in the phase the state is in (44_stream_engine.md R171). -/
namespace Sys2Proof.Machine

/-- `DEC.Z85` (R160). -/
def execDecZ85 (g : Bool) (s : State) : Result := decodeStep .z85 g s

end Sys2Proof.Machine
end

