-- ==== Sys2Proof/Machine/Z85Encode.lean ====
section
/-! DEFINITION. The Z85 encode operation (41_z85_encode.md R121). IGNORE_GARBAGE has no effect on it (30_encoding.md R73). Each meaning is one engine step of the operation
in the phase the state is in (44_stream_engine.md R171). -/
namespace Sys2Proof.Machine

/-- `ENC.Z85` (R121). -/
def execEncZ85 (_g : Bool) (s : State) : Result := encodeStep encZ85 s

end Sys2Proof.Machine
end

