-- ==== Sys2Proof/Machine/Dispatch.lean ====
section
/-! DEFINITION. The meaning of each operation, one arm per constructor (30_encoding.md R75). -/
namespace Sys2Proof.Machine

/-- One engine step of an operation. -/
def exec (i : Instr) (s : State) : Host.Outcome State Fault Refusal :=
  match i with
  | .encB64 g => Sys2Proof.Machine.execEncB64 g s
  | .encB64Url g => Sys2Proof.Machine.execEncB64Url g s
  | .encB32 g => Sys2Proof.Machine.execEncB32 g s
  | .encB32Hex g => Sys2Proof.Machine.execEncB32Hex g s
  | .encB16 g => Sys2Proof.Machine.execEncB16 g s
  | .encB2Msbf g => Sys2Proof.Machine.execEncB2Msbf g s
  | .encB2Lsbf g => Sys2Proof.Machine.execEncB2Lsbf g s
  | .encZ85 g => Sys2Proof.Machine.execEncZ85 g s
  | .decB64 g => Sys2Proof.Machine.execDecB64 g s
  | .decB64Url g => Sys2Proof.Machine.execDecB64Url g s
  | .decB32 g => Sys2Proof.Machine.execDecB32 g s
  | .decB32Hex g => Sys2Proof.Machine.execDecB32Hex g s
  | .decB16 g => Sys2Proof.Machine.execDecB16 g s
  | .decB2Msbf g => Sys2Proof.Machine.execDecB2Msbf g s
  | .decB2Lsbf g => Sys2Proof.Machine.execDecB2Lsbf g s
  | .decZ85 g => Sys2Proof.Machine.execDecZ85 g s

end Sys2Proof.Machine
end

