-- ==== Sys2Proof/Machine/Fetch.lean ====
section
/-! DEFINITION. Which step comes next: a host command that is due, or the engine step of the operation CTRL selects
(44_stream_engine.md R171, 30_encoding.md R74, 20_memory.md R64). There is no instruction memory and no program counter
(10_state.md R23). -/
namespace Sys2Proof.Machine

/-- What `fetch` finds: the step's whole answer, or an operation and the state to take its engine step in. -/
inductive Fetched where
  | answer (r : Result)
  | run (i : Instr) (s : State)

/-- The engine's turn: no step is enabled in IDLE, DONE and ERROR (44_stream_engine.md R171, R182); in the other phases
the operation is read from CTRL (20_memory.md R64). -/
def engineTurn (s : State) : Fetched :=
  match s.phase with
  | .idle => .answer (.fault .waitingForStart)
  | .done => .answer (.fault .sessionDone)
  | .error => .answer (.fault .sessionError)
  | .fill | .process | .drain | .finish =>
    match decode s.ctrl with
    | .ok i => .run i s
    | .error _ => .answer (.refused .reservedConfiguration)

/-- `turns` without its first entry. -/
def dropTurn (s : State) : State := { s with turns := s.turns.tail }

/-- A host command is taken when the host issues it, an engine step otherwise (44_stream_engine.md R171; log 3).
Parameters the spec does not allow are refused (70_reset_and_hazards.md R245; log 7). -/
def fetch (s : State) : Fetched :=
  if s.params.wf then
    match s.turns with
    | [] => engineTurn s
    | .engine :: _ => engineTurn (dropTurn s)
    | .cmd c :: _ => .answer (.next (hostCommand c (dropTurn s)))
  else .answer (.refused .illegalParameters)

/-- CTRL holds the word, the host has no command pending, and the session is at the PROCESS step of its final chunk,
whatever IBUF holds: the next step is the operation's own (log 14). -/
def placeOperation (w : Nat) (s : State) : State :=
  { s with ctrl := BitVec.ofNat 8 w, phase := .process, eos := true, turns := [] }

end Sys2Proof.Machine
end

