-- ==== Sys2Proof/Machine/Step.lean ====
section
/-! DEFINITION. One step of the machine: a host command, or the engine step of the selected operation
(44_stream_engine.md R171). -/
namespace Sys2Proof.Machine

/-- One step. -/
def step (s : State) : Host.Outcome State Fault Refusal :=
  match fetch s with
  | .answer r => r
  | .run i t => exec i t

/-- `s` with the operation of the CTRL word `w` placed so that the next step runs it (log 14). -/
def State.withFetchWord (s : State) (_nbits w : Nat) : State := placeOperation w s

end Sys2Proof.Machine
end

