-- ==== Sys2Proof/Safety.lean ====
section
/-! DEFINITION. When a session is over and how it ended (44_stream_engine.md R189), and the invariant of a machine that has
run from reset (10_state.md R24, R30, R34, R35; 45_line_wrapper.md R207; 44_stream_engine.md R174, R189). -/
namespace Sys2Proof.Machine

/-- A session is over exactly when PHASE is DONE or ERROR (44_stream_engine.md R189). -/
def sessionOver (s : State) : Bool := s.phase == .done || s.phase == .error

/-- A session is successful exactly when PHASE = DONE (R189). -/
def sessionSucceeded (s : State) : Bool := s.phase == .done

/-- The phases in which an engine step is enabled (44_stream_engine.md R171). -/
def sessionRunning (s : State) : Bool :=
  match s.phase with
  | .fill | .process | .drain | .finish => true
  | .idle | .done | .error => false

/-- The scheme CTRL names (10_state.md R27); the codes are those of 30_encoding.md R72. -/
def ctrlSchemeOf (c : Byte) : Scheme :=
  match (ctrlScheme c).toNat with
  | 0 => .base64
  | 1 => .base64url
  | 2 => .base32
  | 3 => .base32hex
  | 4 => .base16
  | 5 => .base2msbf
  | 6 => .base2lsbf
  | _ => .z85

/-- Both buffers are in canonical form. -/
def BuffersCanonical (s : State) : Prop := s.ibuf.wf ∧ s.obuf.wf

/-- Every element below a length has been written: a read of it finds a byte. -/
def Written (m : Memory) (n : Nat) : Prop := ∀ i, i < n → (readCell m i).isSome

/-- `0 <= COL <= WRAP` when WRAP > 0, `COL = 0` when WRAP = 0, and COL = 0 before a session and in a decode session
(10_state.md R33, 45_line_wrapper.md R207). -/
structure ColumnInv (s : State) : Prop where
  within   : s.col.toNat ≤ s.wrap.toNat
  atIdle   : s.phase = .idle → s.col = 0#32
  onDecode : ctrlMode s.ctrl = .decode → s.col = 0#32

/-- ERR names a kind exactly when the session ended with an error, and never MemoryExhausted (10_state.md R30,
60_exceptions.md R213, R219). -/
structure ErrorInv (s : State) : Prop where
  onlyInError  : s.err.isSome ↔ s.phase = .error
  notExhausted : s.err ≠ some .memoryExhausted

/-- The lengths are within the capacities and the elements below them are written (10_state.md R34, R35). -/
structure BoundsInv (s : State) : Prop where
  ilen     : s.ilen ≤ inCap s.params (ctrlMode s.ctrl)
  opos     : s.opos ≤ s.olen
  olen     : s.olen ≤ obufCap s.params
  carryCnt : s.carryCnt < groupSymbols (ctrlSchemeOf s.ctrl)
  ibuf     : Written s.ibuf s.ilen
  obuf     : Written s.obuf s.olen
  onEncode : ctrlMode s.ctrl = .encode → s.carryCnt = 0

/-- What each phase says of the other registers (44_stream_engine.md R172, R174, R180, R181, R189). -/
structure PhaseInv (s : State) : Prop where
  legal   : sessionRunning s = true ∨ s.phase = .done → ctrlReserved s.ctrl = 0#3
  idle    : s.phase = .idle → s.eos = false ∧ s.ilen = 0 ∧ s.olen = 0 ∧ s.opos = 0 ∧ s.carryCnt = 0
  process : s.phase = .process → s.eos = false → s.ilen = inCap s.params (ctrlMode s.ctrl)
  drain   : s.phase = .drain → s.eos = true → s.carryCnt = 0
  finish  : s.phase = .finish ∨ s.phase = .done → s.eos = true ∧ s.opos = s.olen ∧ s.carryCnt = 0
  done    : s.phase = .done → ctrlMode s.ctrl = .encode → s.col = 0#32

/-- The invariant of a machine that has run from reset with allowed parameters. -/
structure Inv (s : State) : Prop where
  params    : s.params.wf = true
  canonical : BuffersCanonical s
  column    : ColumnInv s
  error     : ErrorInv s
  bounds    : BoundsInv s
  phase     : PhaseInv s

/-! The terms of the statements about operations: the operations by name, and the valid symbols of a text in groups. -/

/-- ENC.B64, ENC.B64URL, ENC.B32, ENC.B32HEX, ENC.B16, ENC.B2MSBF and ENC.B2LSBF with their schemes
(30_encoding.md R75). -/
def radixEncodeOps (g : Bool) : List (Instr × Scheme) :=
  [(.encB64 g, .base64), (.encB64Url g, .base64url), (.encB32 g, .base32), (.encB32Hex g, .base32hex),
   (.encB16 g, .base16), (.encB2Msbf g, .base2msbf), (.encB2Lsbf g, .base2lsbf)]

/-- DEC.B64, DEC.B64URL, DEC.B32, DEC.B32HEX, DEC.B16, DEC.B2MSBF, DEC.B2LSBF and DEC.Z85 with their schemes
(30_encoding.md R75). -/
def decodeOps (g : Bool) : List (Instr × Scheme) :=
  [(.decB64 g, .base64), (.decB64Url g, .base64url), (.decB32 g, .base32), (.decB32Hex g, .base32hex),
   (.decB16 g, .base16), (.decB2Msbf g, .base2msbf), (.decB2Lsbf g, .base2lsbf), (.decZ85 g, .z85)]

/-- Some byte of the text is of class INV (30_encoding.md R90, R91). -/
def hasInvalid (lower : Bool) (s : Scheme) (text : List Byte) : Bool :=
  text.any fun c => classify lower s c == .inv

/-- The symbol value of a byte of class SYM(v), none for every other class (30_encoding.md R92). -/
def symbolOf (lower : Bool) (s : Scheme) (c : Byte) : Option Nat :=
  match classify lower s c with
  | .sym v => some v
  | .nl | .padch | .inv => none

/-- The valid-symbol sequence of a text (20_memory.md R57). -/
def validSymbols (lower : Bool) (s : Scheme) (text : List Byte) : List Nat := text.filterMap (symbolOf lower s)

/-- The bytes of the full groups of a symbol sequence, group after group (42_radix_decode.md R134). -/
def fullGroups (s : Scheme) (syms : List Nat) : List Byte :=
  (List.range (syms.length / groupSymbols s)).flatMap fun j =>
    unpackGroup s ((syms.drop (j * groupSymbols s)).take (groupSymbols s))

/-- The symbols after the last full group (42_radix_decode.md R135). -/
def leftover (s : Scheme) (syms : List Nat) : List Nat :=
  syms.drop (syms.length / groupSymbols s * groupSymbols s)

/-! The characters the alphabets of 30_encoding.md R81 to R87 are made of, in ASCII (00_scope.md R12; log 16). -/

/-- `A` to `Z`. -/
def upperLetters : List Byte :=
  [0x41, 0x42, 0x43, 0x44, 0x45, 0x46, 0x47, 0x48, 0x49, 0x4A, 0x4B, 0x4C, 0x4D,
   0x4E, 0x4F, 0x50, 0x51, 0x52, 0x53, 0x54, 0x55, 0x56, 0x57, 0x58, 0x59, 0x5A]

/-- `a` to `z`. -/
def lowerLetters : List Byte :=
  [0x61, 0x62, 0x63, 0x64, 0x65, 0x66, 0x67, 0x68, 0x69, 0x6A, 0x6B, 0x6C, 0x6D,
   0x6E, 0x6F, 0x70, 0x71, 0x72, 0x73, 0x74, 0x75, 0x76, 0x77, 0x78, 0x79, 0x7A]

/-- `0` to `9`. -/
def decimalDigits : List Byte := [0x30, 0x31, 0x32, 0x33, 0x34, 0x35, 0x36, 0x37, 0x38, 0x39]

end Sys2Proof.Machine
end

