-- ==== Sys2Proof/Certificates/Slice0/Obligations.lean ====
section
/-! DEFINITION. The statements about the model, from the numbered rules of spec/. A docstring names the rule a statement
formalises; where a clause rests on a choice of the model, it names the log entry. -/
open Sys2Proof Sys2Proof.Machine

/-! The CTRL word and the step. -/

/-- 30_encoding.md sections 1 and 2 (92_eei_decisions.md D2): the CTRL word of every operation reads back as that
operation, every CTRL word that reads as an operation is that operation's word bit for bit, every word with CTRL[7:5] = 0
is an operation, and every other word is rejected for its reserved bits. -/
def Obligations.CtrlDecodeEncodeAgree : Prop :=
  (∀ i : Instr, decode (encode i) = .ok i) ∧
  (∀ (c : Byte) (i : Instr), decode c = .ok i → encode i = c) ∧
  (∀ c : Byte, c.extractLsb' 5 3 = 0#3 → ∃ i, decode c = .ok i) ∧
  (∀ c : Byte, c.extractLsb' 5 3 ≠ 0#3 → decode c = .error .reservedBits)

/-- The operation map of 30_encoding.md section 2, row by row, each row with either value of CTRL[4] (92_eei_decisions.md
D2), and the three reserved bits. -/
def Obligations.PrintedCtrlWordsDecode : Prop :=
  decode 0x00#8 = .ok (.encB64 false) ∧ decode 0x10#8 = .ok (.encB64 true) ∧
  decode 0x01#8 = .ok (.encB64Url false) ∧ decode 0x11#8 = .ok (.encB64Url true) ∧
  decode 0x02#8 = .ok (.encB32 false) ∧ decode 0x12#8 = .ok (.encB32 true) ∧
  decode 0x03#8 = .ok (.encB32Hex false) ∧ decode 0x13#8 = .ok (.encB32Hex true) ∧
  decode 0x04#8 = .ok (.encB16 false) ∧ decode 0x14#8 = .ok (.encB16 true) ∧
  decode 0x05#8 = .ok (.encB2Msbf false) ∧ decode 0x15#8 = .ok (.encB2Msbf true) ∧
  decode 0x06#8 = .ok (.encB2Lsbf false) ∧ decode 0x16#8 = .ok (.encB2Lsbf true) ∧
  decode 0x07#8 = .ok (.encZ85 false) ∧ decode 0x17#8 = .ok (.encZ85 true) ∧
  decode 0x08#8 = .ok (.decB64 false) ∧ decode 0x18#8 = .ok (.decB64 true) ∧
  decode 0x09#8 = .ok (.decB64Url false) ∧ decode 0x19#8 = .ok (.decB64Url true) ∧
  decode 0x0A#8 = .ok (.decB32 false) ∧ decode 0x1A#8 = .ok (.decB32 true) ∧
  decode 0x0B#8 = .ok (.decB32Hex false) ∧ decode 0x1B#8 = .ok (.decB32Hex true) ∧
  decode 0x0C#8 = .ok (.decB16 false) ∧ decode 0x1C#8 = .ok (.decB16 true) ∧
  decode 0x0D#8 = .ok (.decB2Msbf false) ∧ decode 0x1D#8 = .ok (.decB2Msbf true) ∧
  decode 0x0E#8 = .ok (.decB2Lsbf false) ∧ decode 0x1E#8 = .ok (.decB2Lsbf true) ∧
  decode 0x0F#8 = .ok (.decZ85 false) ∧ decode 0x1F#8 = .ok (.decZ85 true) ∧
  decode 0x20#8 = .error .reservedBits ∧ decode 0x40#8 = .error .reservedBits ∧ decode 0x80#8 = .error .reservedBits

/-- 44_stream_engine.md R171 and 20_memory.md R64: in a phase of a session, with no host command due, a step is the
engine step of the operation CTRL selects; a turn left to the engine is used up by it (log 3). -/
def Obligations.StepRunsSelectedOperation : Prop :=
  ∀ (s : State) (i : Instr), s.params.wf = true → sessionRunning s = true → decode s.ctrl = .ok i →
    (s.turns = [] → step s = exec i s) ∧
    (∀ rest, s.turns = .engine :: rest → step s = exec i { s with turns := rest })

/-- 44_stream_engine.md R171: a host command is taken when the host issues it, in every phase; 70_reset_and_hazards.md
R245: a machine whose ENC_CHUNK or DEC_CHUNK is not allowed is rejected (log 7). -/
def Obligations.StepTakesDueHostCommand : Prop :=
  ∀ s : State,
    (s.params.wf = true → ∀ c rest, s.turns = .cmd c :: rest →
      step s = .next (hostCommand c { s with turns := rest })) ∧
    ((s.params.encChunk = 0 ∨ s.params.encChunk % 60 ≠ 0 ∨ s.params.decChunk = 0) →
      step s = .refused .illegalParameters)

/-- Where no step is enabled or the host's answer is missing, the model stops by name (44_stream_engine.md R171, R182, R188;
the stops are the model's, log 4 and log 5). -/
def Obligations.NoStepWithoutCommandOrAnswer : Prop :=
  (∀ s : State, s.params.wf = true → s.turns = [] →
    (s.phase = .idle → step s = .fault .waitingForStart) ∧
    (s.phase = .done → step s = .fault .sessionDone) ∧
    (s.phase = .error → step s = .fault .sessionError)) ∧
  (∀ (i : Instr) (s : State), s.phase = .fill → s.ilen < inCap s.params (modeOf i) → s.eos = false → s.input = [] →
    exec i s = .fault .blockedInRead) ∧
  (∀ (i : Instr) (s : State) (b : Byte), s.phase = .drain → s.opos < s.olen → readCell s.obuf s.opos = some b →
    s.acks = [] → exec i s = .fault .blockedOutWrite) ∧
  (∀ (i : Instr) (s : State), modeOf i = .encode → s.phase = .finish → s.wrap ≠ 0#32 → s.col ≠ 0#32 → s.acks = [] →
    exec i s = .fault .blockedOutWrite)

/-! The host's commands. -/

/-- 70_reset_and_hazards.md section 1: RESET in any phase leaves every register at its reset value, and what the host has
been given, has written and has still to give stays with the host. The buffers' contents and CARRY, which the spec leaves
unspecified, are not claimed. -/
def Obligations.ResetRestoresResetValues : Prop :=
  ∀ (s : State) (rest : List HostTurn), s.params.wf = true → s.turns = .cmd .reset :: rest →
    ∃ t, step s = .next t ∧ t.ctrl = 0x00#8 ∧ t.wrap = 76#32 ∧ t.phase = .idle ∧ t.eos = false ∧ t.err = none ∧
      t.col = 0#32 ∧ t.ilen = 0 ∧ t.olen = 0 ∧ t.opos = 0 ∧ t.carryCnt = 0 ∧ t.input = s.input ∧ t.output = s.output ∧
      t.acks = s.acks ∧ t.turns = rest ∧ t.readback = s.readback ∧ t.params = s.params

/-- 70_reset_and_hazards.md section 1 (92_eei_decisions.md D20): the registers of the reset state. -/
def Obligations.ResetStateRegisters : Prop :=
  State.reset.ctrl = 0x00#8 ∧ State.reset.wrap = 76#32 ∧ State.reset.phase = .idle ∧ State.reset.eos = false ∧
  State.reset.err = none ∧ State.reset.col = 0#32 ∧ State.reset.ilen = 0 ∧ State.reset.olen = 0 ∧
  State.reset.opos = 0 ∧ State.reset.carryCnt = 0

/-- 10_state.md section 5 (92_eei_decisions.md D21): a CfgWrite in IDLE writes the low bits of the value and nothing else;
in every other phase it changes nothing. -/
def Obligations.CfgWriteOnlyInIdle : Prop :=
  ∀ (s : State) (v : Nat) (rest : List HostTurn), s.params.wf = true →
    (s.turns = .cmd (.cfgWrite .ctrl v) :: rest → s.phase = .idle →
      ∃ c, step s = .next { s with turns := rest, ctrl := c } ∧ c.toNat = v % 2 ^ 8) ∧
    (s.turns = .cmd (.cfgWrite .wrap v) :: rest → s.phase = .idle →
      ∃ w, step s = .next { s with turns := rest, wrap := w } ∧ w.toNat = v % 2 ^ 32) ∧
    (∀ r, s.turns = .cmd (.cfgWrite r v) :: rest → s.phase ≠ .idle → step s = .next { s with turns := rest })

/-- 44_stream_engine.md section 1 and 60_exceptions.md section 1 (92_eei_decisions.md D4, D21): START in IDLE begins a
session where CTRL[7:5] = 0 and takes the error entry UnsupportedScheme where it is not; in every other phase it changes
nothing. -/
def Obligations.StartBeginsSessionOrRaises : Prop :=
  ∀ (s : State) (rest : List HostTurn), s.params.wf = true → s.turns = .cmd .start :: rest →
    (s.phase = .idle → s.ctrl.extractLsb' 5 3 = 0#3 →
      step s = .next { s with turns := rest, err := none, eos := false, ilen := 0, olen := 0, opos := 0, col := 0#32,
                              carryCnt := 0, phase := .fill }) ∧
    (s.phase = .idle → s.ctrl.extractLsb' 5 3 ≠ 0#3 →
      step s = .next { s with turns := rest, err := some .unsupportedScheme, phase := .error }) ∧
    (s.phase ≠ .idle → step s = .next { s with turns := rest })

/-- 10_state.md section 5 (92_eei_decisions.md D26): a host read gives the register's value and changes nothing; STATUS is
the code of PHASE in bits 2:0, EOS in bit 3, the code of ERR in bits 6:4 and 0 in bit 7, with the codes 0 to 6 of
10_state.md sections 3 and 5 (92_eei_decisions.md D5, D6). That the value is kept in `readback` is the model's (log 2). -/
def Obligations.HostReadHasNoSideEffect : Prop :=
  ∀ (s : State) (r : HostReg) (rest : List HostTurn), s.params.wf = true → s.turns = .cmd (.read r) :: rest →
    ∃ v : BitVec 32, step s = .next { s with turns := rest, readback := s.readback ++ [(r, v)] } ∧
      (r = .ctrl → v.toNat = s.ctrl.toNat) ∧ (r = .wrap → v = s.wrap) ∧
      (r = .status →
        (v.extractLsb' 0 3).toNat = (match s.phase with
          | .idle => 0 | .fill => 1 | .process => 2 | .drain => 3 | .finish => 4 | .done => 5 | .error => 6) ∧
        v.getLsbD 3 = s.eos ∧
        (v.extractLsb' 4 3).toNat = (match s.err with
          | none => 0
          | some .invalidInputSymbol => 1
          | some .misalignedLength => 2
          | some .memoryExhausted => 3
          | some .ioReadError => 4
          | some .ioWriteError => 5
          | some .unsupportedScheme => 6) ∧
        v.extractLsb' 7 25 = 0#25)

/-- 70_reset_and_hazards.md section 2 with the notation of 30_encoding.md section 3: the commands of a session line, in
any state, bring the engine to FILL with the line's operation in CTRL and its width in WRAP, 76 where it names none. -/
def Obligations.BootSequenceStartsSession : Prop :=
  ∀ (l : SessionLine) (s : State), l.wf = true →
    ∃ t, (bootCommands l).foldl (fun u c => hostCommand c u) s = t ∧ t.phase = .fill ∧ decode t.ctrl = .ok l.op ∧
      t.wrap.toNat = l.wrap.getD 76 ∧ t.eos = false ∧ t.err = none ∧ t.col = 0#32 ∧ t.ilen = 0 ∧ t.olen = 0 ∧
      t.opos = 0 ∧ t.carryCnt = 0 ∧ t.input = s.input ∧ t.output = s.output

/-! FILL. -/

/-- 44_stream_engine.md section 1 (R173, R174): the FILL step of every operation asks for one item and stores it at
IBUF[ILEN], sets EOS, or takes the error entry; with the buffer full or EOS set it goes to PROCESS without I/O. -/
def Obligations.FillTakesOneItemOrEnds : Prop :=
  ∀ (i : Instr) (s : State), s.phase = .fill →
    (s.ilen < inCap s.params (modeOf i) → s.eos = false →
      (∀ b rest, s.input = .byte b :: rest →
        exec i s = .next { s with input := rest, ibuf := writeCell s.ibuf s.ilen b, ilen := s.ilen + 1 }) ∧
      (∀ rest, s.input = .eos :: rest → exec i s = .next { s with input := rest, eos := true }) ∧
      (∀ rest, s.input = .err :: rest →
        exec i s = .next { s with input := rest, err := some .ioReadError, phase := .error })) ∧
    (s.ilen = inCap s.params (modeOf i) ∨ s.eos = true → exec i s = .next { s with phase := .process })

/-! PROCESS. -/

/-- 44_stream_engine.md R175: the PROCESS step of every encode operation packs the chunk IBUF[0 .. ILEN) into OBUF and
goes to DRAIN; ENC.Z85 takes the error entry MisalignedLength where ILEN is not a multiple of 4; a full chunk is a whole
number of blocks of every scheme. -/
def Obligations.EncodeProcessPacksChunk : Prop :=
  ∀ (g : Bool) (s : State) (data : List Byte), s.phase = .process → s.ilen ≤ s.params.encChunk →
    readCells s.ibuf 0 s.ilen = some data →
    (∀ p ∈ radixEncodeOps g,
      exec p.1 s = .next { s with obuf := writeCells s.obuf 0 (encRadix p.2 data),
                                  olen := (encRadix p.2 data).length, opos := 0, phase := .drain }) ∧
    (s.ilen % 4 = 0 → ∃ syms, encZ85 data = .ok syms ∧
      exec (.encZ85 g) s = .next { s with obuf := writeCells s.obuf 0 syms, olen := syms.length, opos := 0,
                                          phase := .drain }) ∧
    (s.ilen % 4 ≠ 0 → exec (.encZ85 g) s = .next { s with err := some .misalignedLength, phase := .error }) ∧
    (s.params.wf = true → s.ilen = s.params.encChunk → ∀ sc, s.ilen % blockBytes sc = 0)

/-- 44_stream_engine.md R176: the PROCESS step of every decode operation. The valid symbols of the chunk follow the
carried ones; an invalid byte in strict mode is the error entry InvalidInputSymbol; otherwise the full groups are unpacked
into OBUF, the symbols after the last full group are carried where EOS = 0, and where EOS = 1 they are unpacked partially
(base64, base32 families), dropped (base16) or are the error entry MisalignedLength (base2, z85). -/
def Obligations.DecodeProcessUnpacksChunk : Prop :=
  ∀ (g : Bool) (s : State) (data : List Byte), ∀ p ∈ decodeOps g, s.phase = .process → s.ilen ≤ s.params.decChunk →
    s.carryCnt < groupSymbols p.2 → readCells s.ibuf 0 s.ilen = some data →
    let low := s.params.b16DecodeLowercase
    let syms := (s.carry.toList.take s.carryCnt).map BitVec.toNat ++ validSymbols low p.2 data
    let left := leftover p.2 syms
    (g = false → hasInvalid low p.2 data = true →
      exec p.1 s = .next { s with err := some .invalidInputSymbol, phase := .error }) ∧
    (g = true ∨ hasInvalid low p.2 data = false → s.eos = false →
      ∃ h : left.length < 8, exec p.1 s = .next { s with
        carry := storeCarry s.carry left h, carryCnt := left.length,
        obuf := writeCells s.obuf 0 (fullGroups p.2 syms), olen := (fullGroups p.2 syms).length, opos := 0,
        phase := .drain }) ∧
    (g = true ∨ hasInvalid low p.2 data = false → s.eos = true →
      (left ≠ [] → p.2 = .base2msbf ∨ p.2 = .base2lsbf ∨ p.2 = .z85 →
        exec p.1 s = .next { s with err := some .misalignedLength, phase := .error }) ∧
      (left = [] ∨ p.2 = .base16 →
        exec p.1 s = .next { s with
          carryCnt := 0, obuf := writeCells s.obuf 0 (fullGroups p.2 syms), olen := (fullGroups p.2 syms).length,
          opos := 0, phase := .drain }) ∧
      (left ≠ [] → p.2 = .base64 ∨ p.2 = .base64url ∨ p.2 = .base32 ∨ p.2 = .base32hex →
        let out := fullGroups p.2 syms ++ unpackPartial p.2 left
        exec p.1 s = .next { s with
          carryCnt := 0, obuf := writeCells s.obuf 0 out, olen := out.length, opos := 0, phase := .drain }))

/-! DRAIN and FINISH. -/

/-- 44_stream_engine.md R178: the DRAIN step of every decode operation writes OBUF[OPOS] and advances OPOS, whatever COL
and WRAP hold, or takes the error entry IOWriteError. -/
def Obligations.DecodeDrainWritesNextByte : Prop :=
  ∀ (g : Bool) (s : State) (b : Byte), ∀ p ∈ decodeOps g, s.phase = .drain → s.opos < s.olen →
    readCell s.obuf s.opos = some b →
    (∀ rest, s.acks = .ok :: rest →
      exec p.1 s = .next { s with acks := rest, output := s.output ++ [b], opos := s.opos + 1 }) ∧
    (∀ rest, s.acks = .err :: rest →
      exec p.1 s = .next { s with acks := rest, err := some .ioWriteError, phase := .error })

/-- 44_stream_engine.md section 1 (R179; 92_eei_decisions.md D22) and 45_line_wrapper.md R201, R202: the DRAIN step of every
encode operation writes a newline and clears COL where the line is full, and otherwise writes OBUF[OPOS], advances OPOS
and counts the symbol where wrapping is enabled; a failed write is the error entry IOWriteError. -/
def Obligations.EncodeDrainGoesThroughWrapper : Prop :=
  ∀ (i : Instr) (s : State) (b : Byte), modeOf i = .encode → s.phase = .drain → s.opos < s.olen →
    readCell s.obuf s.opos = some b →
    (∀ rest, s.acks = .ok :: rest →
      (s.wrap ≠ 0#32 → s.col = s.wrap →
        exec i s = .next { s with acks := rest, output := s.output ++ [0x0A#8], col := 0#32 }) ∧
      (s.wrap ≠ 0#32 → s.col ≠ s.wrap →
        exec i s = .next { s with acks := rest, output := s.output ++ [b], opos := s.opos + 1, col := s.col + 1#32 }) ∧
      (s.wrap = 0#32 →
        exec i s = .next { s with acks := rest, output := s.output ++ [b], opos := s.opos + 1 })) ∧
    (∀ rest, s.acks = .err :: rest →
      exec i s = .next { s with acks := rest, err := some .ioWriteError, phase := .error })

/-- 44_stream_engine.md R180: with OPOS = OLEN every operation leaves DRAIN, for FINISH where EOS = 1 and otherwise for
FILL with ILEN = 0. -/
def Obligations.DrainEndsInFinishOrFill : Prop :=
  ∀ (i : Instr) (s : State), s.phase = .drain → s.opos = s.olen →
    (s.eos = true → exec i s = .next { s with phase := .finish }) ∧
    (s.eos = false → exec i s = .next { s with ilen := 0, phase := .fill })

/-- 44_stream_engine.md section 1 (R181) and 45_line_wrapper.md R203: FINISH writes one newline and clears COL for an encode
operation with wrapping enabled and COL > 0, and otherwise goes to DONE without I/O. -/
def Obligations.FinishWritesTrailingNewline : Prop :=
  ∀ (i : Instr) (s : State), s.phase = .finish →
    (modeOf i = .encode → s.wrap ≠ 0#32 → s.col ≠ 0#32 →
      (∀ rest, s.acks = .ok :: rest →
        exec i s = .next { s with acks := rest, output := s.output ++ [0x0A#8], col := 0#32, phase := .done }) ∧
      (∀ rest, s.acks = .err :: rest →
        exec i s = .next { s with acks := rest, err := some .ioWriteError, phase := .error })) ∧
    (modeOf i = .decode ∨ s.wrap = 0#32 ∨ s.col = 0#32 → exec i s = .next { s with phase := .done })

/-! The errors. -/

/-- 60_exceptions.md R219: every step into ERROR is the error entry: ERR names the kind, and every register, buffer and
byte of the output stream is as before; from the host's side nothing is gone but the answer ERR and the turn that the
step took; and the engine stops: no operation has an engine step from there. -/
def Obligations.ErrorEntryChangesOnlyErrAndPhase : Prop :=
  ∀ s t : State, step s = .next t → s.phase ≠ .error → t.phase = .error →
    (∃ k, t = { s with err := some k, phase := .error, input := t.input, acks := t.acks, turns := t.turns }) ∧
    (t.input = s.input ∨ s.input = .err :: t.input) ∧ (t.acks = s.acks ∨ s.acks = .err :: t.acks) ∧
    (t.turns = s.turns ∨ ∃ x, s.turns = x :: t.turns) ∧
    ∀ i u, exec i t ≠ .next u

/-- 60_exceptions.md R220: in ERROR no engine step is enabled for any operation; a RESET that is due always has its step and
leaves the engine in the reset registers, in IDLE; and any step with no RESET due leaves every register, both buffers, the
carry and both streams as they are, so that only the host's list of commands and the values its reads were given differ. -/
def Obligations.ErrorIsTerminalUntilReset : Prop :=
  ∀ s : State, s.phase = .error →
    (∀ i u, exec i s ≠ .next u) ∧
    (∀ rest, s.params.wf = true → s.turns = .cmd .reset :: rest →
      ∃ t, step s = .next t ∧ t.phase = .idle ∧ t.err = none ∧ t.ctrl = State.reset.ctrl ∧ t.wrap = State.reset.wrap ∧
        t.eos = false ∧ t.col = 0#32 ∧ t.ilen = 0 ∧ t.olen = 0 ∧ t.opos = 0 ∧ t.carryCnt = 0) ∧
    (∀ t, step s = .next t → (∀ rest, s.turns ≠ .cmd .reset :: rest) →
      t = { s with turns := t.turns, readback := t.readback })

/-- 60_exceptions.md R214: an InRead() answered ERR ends the session of every operation in ERROR with IOReadError, and
the partly filled chunk is never processed: no engine step follows. -/
def Obligations.ReadErrorDiscardsChunk : Prop :=
  ∀ (i : Instr) (s : State) (rest : List InItem), s.phase = .fill → s.ilen < inCap s.params (modeOf i) →
    s.eos = false → s.input = .err :: rest →
    ∃ t, exec i s = .next t ∧ t = { s with input := rest, err := some .ioReadError, phase := .error } ∧
      ∀ j u, exec j t ≠ .next u

/-- 60_exceptions.md R215: an OutWrite answered ERR ends the session with IOWriteError, whether for a symbol, a decoded
byte, a wrapper newline or the trailing newline; the output stream keeps the bytes accepted before and no other. -/
def Obligations.WriteErrorEndsSession : Prop :=
  ∀ (i : Instr) (s : State) (rest : List OutAnswer), s.acks = .err :: rest →
    ((s.phase = .drain ∧ s.opos < s.olen ∧ (readCell s.obuf s.opos).isSome) ∨
     (s.phase = .finish ∧ modeOf i = .encode ∧ s.wrap ≠ 0#32 ∧ s.col ≠ 0#32)) →
    exec i s = .next { s with acks := rest, err := some .ioWriteError, phase := .error }

/-- 60_exceptions.md R211: InvalidInputSymbol is raised by a decode operation in strict mode for a chunk that holds a byte
of class INV, by nothing else, and the chunk writes nothing. -/
def Obligations.InvalidSymbolOnlyInStrictDecode : Prop :=
  (∀ (i : Instr) (s t : State), exec i s = .next t → s.err ≠ some .invalidInputSymbol →
    t.err = some .invalidInputSymbol →
    s.phase = .process ∧ modeOf i = .decode ∧ ignoreGarbageOf i = false ∧
    (∃ data, readCells s.ibuf 0 s.ilen = some data ∧
      hasInvalid s.params.b16DecodeLowercase (schemeOf i) data = true) ∧
    t = { s with err := some .invalidInputSymbol, phase := .error }) ∧
  (∀ (i : Instr) (s : State) (data : List Byte), s.phase = .process → modeOf i = .decode → ignoreGarbageOf i = false →
    s.ilen ≤ s.params.decChunk → readCells s.ibuf 0 s.ilen = some data →
    hasInvalid s.params.b16DecodeLowercase (schemeOf i) data = true →
    exec i s = .next { s with err := some .invalidInputSymbol, phase := .error })

/-- 60_exceptions.md section 1, whole input: MisalignedLength is the result of exactly the sessions of ENC.Z85 whose input is
not a multiple of 4 bytes, and of DEC.Z85, DEC.B2MSBF and DEC.B2LSBF whose valid symbols are not a multiple of 5 or 8, in
either decode mode, where no invalid byte ends a strict session before. -/
def Obligations.MisalignedLengthHasThreeCauses : Prop :=
  ∀ (low : Bool) (w : Word) (i : Instr) (inp : List Byte),
    sessionResult low w i inp = .error .misalignedLength ↔
      (∃ g, i = .encZ85 g ∧ inp.length % 4 ≠ 0) ∨
      (∃ g, i = .decZ85 g ∧ (g = true ∨ hasInvalid low .z85 inp = false) ∧
        (validSymbols low .z85 inp).length % 5 ≠ 0) ∨
      (∃ g, i = .decB2Msbf g ∧ (g = true ∨ hasInvalid low .base2msbf inp = false) ∧
        (validSymbols low .base2msbf inp).length % 8 ≠ 0) ∨
      (∃ g, i = .decB2Lsbf g ∧ (g = true ∨ hasInvalid low .base2lsbf inp = false) ∧
        (validSymbols low .base2lsbf inp).length % 8 ≠ 0)

/-- 60_exceptions.md section 1 and 44_stream_engine.md section 1: in a machine that meets the invariant, MisalignedLength
is raised by the PROCESS step of the final chunk only, and that chunk writes nothing. -/
def Obligations.MisalignedLengthJudgedAtEndOfStream : Prop :=
  ∀ s t : State, Inv s → step s = .next t → s.err ≠ some .misalignedLength → t.err = some .misalignedLength →
    s.phase = .process ∧ s.eos = true ∧ t.output = s.output ∧ t.obuf = s.obuf ∧ t.olen = s.olen ∧ t.opos = s.opos ∧
      t.phase = .error

/-- 60_exceptions.md section 1 (92_eei_decisions.md D18): no step raises MemoryExhausted. -/
def Obligations.MemoryExhaustedNeverRaised : Prop :=
  ∀ s t : State, step s = .next t → t.err = some .memoryExhausted → s.err = some .memoryExhausted

/-- 60_exceptions.md R222: for every decode operation, IGNORE_GARBAGE changes nothing outside PROCESS, and in PROCESS
nothing but the error entry InvalidInputSymbol for a chunk with a byte of class INV; START raises UnsupportedScheme
whatever CTRL[4] is; newlines and, in the radix family, `=` have their own classes in both modes. -/
def Obligations.IgnoreGarbageRemovesOneCause : Prop :=
  (∀ (s : State), ∀ pq ∈ (decodeOps true).zip (decodeOps false),
    (s.phase ≠ .process → exec pq.1.1 s = exec pq.2.1 s) ∧
    (s.phase = .process → ∀ data, readCells s.ibuf 0 s.ilen = some data →
      hasInvalid s.params.b16DecodeLowercase pq.1.2 data = false → exec pq.1.1 s = exec pq.2.1 s) ∧
    (∀ t, exec pq.1.1 s = .next t → t.err = some .invalidInputSymbol → s.err = some .invalidInputSymbol)) ∧
  (∀ s : State, s.phase = .idle →
    ((startSession s).err = some .unsupportedScheme ∧ (startSession s).phase = .error ↔
      s.ctrl.extractLsb' 5 3 ≠ 0#3)) ∧
  (∀ (low : Bool) (sc : Scheme), classify low sc 0x0A#8 = .nl ∧ classify low sc 0x0D#8 = .nl ∧
    (sc ≠ .z85 → classify low sc 0x3D#8 = .padch))

/-- 60_exceptions.md section 4 and 44_stream_engine.md R186: no step takes back a byte of the output stream, and a step
appends at most one. -/
def Obligations.OutputIsNeverRetracted : Prop :=
  ∀ s t : State, step s = .next t → t.output = s.output ∨ ∃ b, t.output = s.output ++ [b]

/-! The packers. -/

/-- 40_radix_encode.md R101: the symbols of a full sub-block of an MSB-first scheme are the bit fields of the block value,
most significant first. -/
def Obligations.FullBlockSymbolsAreBitFields : Prop :=
  ∀ (sc : Scheme) (blk : List Byte), sc ≠ .base2lsbf → sc ≠ .z85 → blk.length = blockBytes sc →
    bytesValue blk = ((List.range (blockBytes sc)).map fun i =>
      (blk.getD i 0).toNat * 2 ^ (8 * (blockBytes sc - 1 - i))).sum ∧
    (packFull sc blk).length = groupSymbols sc ∧
    ∀ i, i < groupSymbols sc →
      (packFull sc blk)[i]? = some (alpha sc ((BitVec.ofNat (8 * blockBytes sc) (bytesValue blk)).extractLsb'
        (8 * blockBytes sc - symbolBits sc * (i + 1)) (symbolBits sc)).toNat)

/-- 40_radix_encode.md R102 and R113, written out in shifts and masks: the symbol values of a full sub-block; and the
encoding of a full sub-block of every radix scheme is the characters of its symbol values, in order. -/
def Obligations.FullBlockSymbolsByShiftsAndMasks : Prop :=
  (∀ b0 b1 b2 : Byte, ∀ sc ∈ [Scheme.base64, Scheme.base64url], blockSymbols sc [b0, b1, b2] =
    [(b0 >>> 2).toNat, (((b0 &&& 0x03#8) <<< 4) ||| (b1 >>> 4)).toNat, (((b1 &&& 0x0F#8) <<< 2) ||| (b2 >>> 6)).toNat,
     (b2 &&& 0x3F#8).toNat]) ∧
  (∀ b0 b1 b2 b3 b4 : Byte, ∀ sc ∈ [Scheme.base32, Scheme.base32hex], blockSymbols sc [b0, b1, b2, b3, b4] =
    [(b0 >>> 3).toNat, (((b0 &&& 0x07#8) <<< 2) ||| (b1 >>> 6)).toNat, ((b1 >>> 1) &&& 0x1F#8).toNat,
     (((b1 &&& 0x01#8) <<< 4) ||| (b2 >>> 4)).toNat, (((b2 &&& 0x0F#8) <<< 1) ||| (b3 >>> 7)).toNat,
     ((b3 >>> 2) &&& 0x1F#8).toNat, (((b3 &&& 0x03#8) <<< 3) ||| (b4 >>> 5)).toNat, (b4 &&& 0x1F#8).toNat]) ∧
  (∀ b : Byte, blockSymbols .base16 [b] = [(b >>> 4).toNat, (b &&& 0x0F#8).toNat]) ∧
  (∀ b : Byte, blockSymbols .base2msbf [b] = (List.range 8).map fun i => ((b >>> (7 - i)) &&& 1#8).toNat) ∧
  (∀ b : Byte, blockSymbols .base2lsbf [b] = (List.range 8).map fun i => ((b >>> i) &&& 1#8).toNat) ∧
  (∀ (sc : Scheme) (blk : List Byte), sc ≠ .z85 → blk.length = blockBytes sc →
    encRadix sc blk = (blockSymbols sc blk).map (alpha sc))

/-- 40_radix_encode.md section 1, final partial sub-block, case by case: the data symbols carry the bytes with zero bits
below, and `=` fills the group; and this is the encoding of an input that ends before its first block is full (R100). -/
def Obligations.PartialBlockPadsWithEquals : Prop :=
  (∀ b0 b1 : Byte, ∀ sc ∈ [Scheme.base64, Scheme.base64url],
    packPartial sc [b0] = [alpha sc (b0 >>> 2).toNat, alpha sc ((b0 &&& 0x03#8) <<< 4).toNat, 0x3D#8, 0x3D#8] ∧
    packPartial sc [b0, b1] = [alpha sc (b0 >>> 2).toNat, alpha sc (((b0 &&& 0x03#8) <<< 4) ||| (b1 >>> 4)).toNat,
      alpha sc ((b1 &&& 0x0F#8) <<< 2).toNat, 0x3D#8]) ∧
  (∀ b0 b1 b2 b3 : Byte, ∀ sc ∈ [Scheme.base32, Scheme.base32hex],
    packPartial sc [b0] = [alpha sc (b0 >>> 3).toNat, alpha sc ((b0 &&& 0x07#8) <<< 2).toNat] ++
      List.replicate 6 0x3D#8 ∧
    packPartial sc [b0, b1] = [alpha sc (b0 >>> 3).toNat, alpha sc (((b0 &&& 0x07#8) <<< 2) ||| (b1 >>> 6)).toNat,
      alpha sc ((b1 >>> 1) &&& 0x1F#8).toNat, alpha sc ((b1 &&& 0x01#8) <<< 4).toNat] ++ List.replicate 4 0x3D#8 ∧
    packPartial sc [b0, b1, b2] = [alpha sc (b0 >>> 3).toNat,
      alpha sc (((b0 &&& 0x07#8) <<< 2) ||| (b1 >>> 6)).toNat, alpha sc ((b1 >>> 1) &&& 0x1F#8).toNat,
      alpha sc (((b1 &&& 0x01#8) <<< 4) ||| (b2 >>> 4)).toNat, alpha sc ((b2 &&& 0x0F#8) <<< 1).toNat] ++
      List.replicate 3 0x3D#8 ∧
    packPartial sc [b0, b1, b2, b3] = [alpha sc (b0 >>> 3).toNat,
      alpha sc (((b0 &&& 0x07#8) <<< 2) ||| (b1 >>> 6)).toNat, alpha sc ((b1 >>> 1) &&& 0x1F#8).toNat,
      alpha sc (((b1 &&& 0x01#8) <<< 4) ||| (b2 >>> 4)).toNat,
      alpha sc (((b2 &&& 0x0F#8) <<< 1) ||| (b3 >>> 7)).toNat, alpha sc ((b3 >>> 2) &&& 0x1F#8).toNat,
      alpha sc ((b3 &&& 0x03#8) <<< 3).toNat] ++ List.replicate 1 0x3D#8) ∧
  (∀ (sc : Scheme) (blk : List Byte), sc ≠ .z85 → 0 < blk.length → blk.length < blockBytes sc →
    encRadix sc blk = packPartial sc blk)

/-- 40_radix_encode.md section 3: the padding law of the base64 and base32 families, and the length of a radix encoding,
which the spec derives. -/
def Obligations.EncodedLengthLaw : Prop :=
  ∀ (sc : Scheme) (data : List Byte), sc ≠ .z85 →
    (encRadix sc data).length = groupSymbols sc * ((data.length + blockBytes sc - 1) / blockBytes sc) ∧
    (sc = .base64 ∨ sc = .base64url → (encRadix sc data).length % 4 = 0) ∧
    (sc = .base32 ∨ sc = .base32hex → (encRadix sc data).length % 8 = 0)

/-- 41_z85_encode.md R121 and R123: the five digits are base-85 digits, highest order first, and spell the group's big-endian
value; the first is at most 82; and the encoding of the group is the five characters of these digits, in order. -/
def Obligations.Z85DigitsSpellGroupValue : Prop :=
  ∀ b0 b1 b2 b3 : Byte, ∃ d0 d1 d2 d3 d4 : Nat,
    z85Digits (bytesValue [b0, b1, b2, b3]) = [d0, d1, d2, d3, d4] ∧
    d0 ≤ 82 ∧ d1 < 85 ∧ d2 < 85 ∧ d3 < 85 ∧ d4 < 85 ∧
    b0.toNat * 2 ^ 24 + b1.toNat * 2 ^ 16 + b2.toNat * 2 ^ 8 + b3.toNat =
      d0 * 85 ^ 4 + d1 * 85 ^ 3 + d2 * 85 ^ 2 + d3 * 85 + d4 ∧
    encZ85 [b0, b1, b2, b3] = .ok ([d0, d1, d2, d3, d4].map (alpha .z85))

/-- 41_z85_encode.md R124, with the precondition of R120: an input of a multiple of 4 bytes gives 5 symbols per 4 bytes,
and any other is MisalignedLength. -/
def Obligations.Z85EncodedLength : Prop :=
  ∀ data : List Byte,
    (data.length % 4 = 0 → ∃ syms, encZ85 data = .ok syms ∧ syms.length = 5 * data.length / 4) ∧
    (data.length % 4 ≠ 0 → encZ85 data = .error .misalignedLength)

/-- 40_radix_encode.md R112: every input of every radix scheme, encoded and wrapped at any width, decodes to itself in
either decode mode. -/
def Obligations.RadixRoundTrip : Prop :=
  ∀ (low g : Bool) (sc : Scheme) (w : Word) (data : List Byte), sc ≠ .z85 →
    decodeText low sc g (wrapText w.toNat (encRadix sc data)) = .ok data

/-- 41_z85_encode.md R126: the same for Z85 and every input whose length is a multiple of 4. -/
def Obligations.Z85RoundTrip : Prop :=
  ∀ (low g : Bool) (w : Word) (data : List Byte), data.length % 4 = 0 →
    ∃ syms, encZ85 data = .ok syms ∧ decodeText low .z85 g (wrapText w.toNat syms) = .ok data

/-! The unpackers. -/

/-- 30_encoding.md R80: `Lookup` inverts `Alpha`, and a byte that is no character of the alphabet is invalid, with the one
exception of the lower-case hexadecimal digits. -/
def Obligations.LookupInvertsAlphabet : Prop :=
  ∀ (low : Bool) (sc : Scheme),
    (∀ v, v < radix sc → lookup low sc (alpha sc v) = some v) ∧
    (∀ c v, lookup low sc c = some v → v < radix sc ∧
      (alpha sc v = c ∨ sc = .base16 ∧ low = true ∧ 0x61 ≤ c.toNat ∧ c.toNat ≤ 0x66 ∧ v = c.toNat - 0x61 + 10)) ∧
    (∀ c : Byte, 0x7F ≤ c.toNat ∨ c.toNat ≤ 0x20 → lookup low sc c = none)

/-- 30_encoding.md section 5: the eight alphabets, character by character in the order of their values, and the
lower-case hexadecimal digits where the parameter accepts them (92_eei_decisions.md D13). The characters are the spec's
general knowledge (log 16). -/
def Obligations.AlphabetsAreAsPrinted : Prop :=
  (List.range 64).map (alpha .base64) = upperLetters ++ lowerLetters ++ decimalDigits ++ [0x2B, 0x2F] ∧
  (List.range 64).map (alpha .base64url) = upperLetters ++ lowerLetters ++ decimalDigits ++ [0x2D, 0x5F] ∧
  (List.range 32).map (alpha .base32) = upperLetters ++ [0x32, 0x33, 0x34, 0x35, 0x36, 0x37] ∧
  (List.range 32).map (alpha .base32hex) = decimalDigits ++ upperLetters.take 22 ∧
  (List.range 16).map (alpha .base16) = decimalDigits ++ upperLetters.take 6 ∧
  (List.range 2).map (alpha .base2msbf) = [0x30, 0x31] ∧ (List.range 2).map (alpha .base2lsbf) = [0x30, 0x31] ∧
  (List.range 85).map (alpha .z85) = decimalDigits ++ lowerLetters ++ upperLetters ++
    [0x2E, 0x2D, 0x3A, 0x2B, 0x3D, 0x5E, 0x21, 0x2F, 0x2A, 0x3F, 0x26, 0x3C] ++
    [0x3E, 0x28, 0x29, 0x5B, 0x5D, 0x7B, 0x7D, 0x40, 0x25, 0x24, 0x23] ∧
  (lowerLetters.take 6).map (lookup true .base16) = [some 10, some 11, some 12, some 13, some 14, some 15] ∧
  (lowerLetters.take 6).map (lookup false .base16) = [none, none, none, none, none, none]

/-- 42_radix_decode.md R136, written out in shifts: the bytes of a full group. -/
def Obligations.FullGroupBytesByShifts : Prop :=
  (∀ s0 s1 s2 s3 : Byte, s0.toNat < 64 → s1.toNat < 64 → s2.toNat < 64 → s3.toNat < 64 →
    ∀ sc ∈ [Scheme.base64, Scheme.base64url], unpackGroup sc [s0.toNat, s1.toNat, s2.toNat, s3.toNat] =
      [(s0 <<< 2) ||| (s1 >>> 4), ((s1 &&& 0x0F#8) <<< 4) ||| (s2 >>> 2), ((s2 &&& 0x03#8) <<< 6) ||| s3]) ∧
  (∀ s0 s1 s2 s3 s4 s5 s6 s7 : Byte, s0.toNat < 32 → s1.toNat < 32 → s2.toNat < 32 → s3.toNat < 32 → s4.toNat < 32 →
    s5.toNat < 32 → s6.toNat < 32 → s7.toNat < 32 →
    ∀ sc ∈ [Scheme.base32, Scheme.base32hex],
      unpackGroup sc [s0.toNat, s1.toNat, s2.toNat, s3.toNat, s4.toNat, s5.toNat, s6.toNat, s7.toNat] =
      [(s0 <<< 3) ||| (s1 >>> 2), ((s1 &&& 0x03#8) <<< 6) ||| (s2 <<< 1) ||| (s3 >>> 4),
       ((s3 &&& 0x0F#8) <<< 4) ||| (s4 >>> 1), ((s4 &&& 0x01#8) <<< 7) ||| (s5 <<< 2) ||| (s6 >>> 3),
       ((s6 &&& 0x07#8) <<< 5) ||| s7]) ∧
  (∀ s0 s1 : Byte, s0.toNat < 16 → s1.toNat < 16 →
    unpackGroup .base16 [s0.toNat, s1.toNat] = [(s0 <<< 4) ||| s1]) ∧
  (∀ b : Byte,
    unpackGroup .base2msbf ((List.range 8).map fun i => (b.getLsbD (7 - i)).toNat) = [b] ∧
    unpackGroup .base2lsbf ((List.range 8).map fun i => (b.getLsbD i).toNat) = [b])

/-- 42_radix_decode.md section 1, trailing partial group: `floor(n*K/8)` bytes, each a bit field of the symbols' value from
the top, whatever the low bits that are dropped. -/
def Obligations.PartialGroupKeepsLeadingBits : Prop :=
  ∀ (sc : Scheme) (grp : List Nat), sc = .base64 ∨ sc = .base64url ∨ sc = .base32 ∨ sc = .base32hex →
    (∀ v ∈ grp, v < radix sc) →
    (unpackPartial sc grp).length = grp.length * symbolBits sc / 8 ∧
    ∀ i, i < grp.length * symbolBits sc / 8 →
      (unpackPartial sc grp)[i]? = some ((BitVec.ofNat (grp.length * symbolBits sc)
        (symbolsValue (symbolBits sc) grp)).extractLsb' (grp.length * symbolBits sc - 8 * (i + 1)) 8)

/-- 43_z85_decode.md section 1 (R158; 92_eei_decisions.md D15 for the wrap): the four bytes of a Z85 group are the digits'
value reduced modulo 2^32, big-endian. -/
def Obligations.Z85GroupValueModulo32Bits : Prop :=
  ∀ d0 d1 d2 d3 d4 : Nat, ∃ v : BitVec 32,
    v.toNat = (d0 * 85 ^ 4 + d1 * 85 ^ 3 + d2 * 85 ^ 2 + d3 * 85 + d4) % 2 ^ 32 ∧
    unpackGroup .z85 [d0, d1, d2, d3, d4] =
      [v.extractLsb' 24 8, v.extractLsb' 16 8, v.extractLsb' 8 8, v.extractLsb' 0 8]

/-- 42_radix_decode.md R130 and 43_z85_decode.md R156: the result of a whole text. In strict mode a byte of class INV is
InvalidInputSymbol; otherwise the valid symbols are cut into groups, and the symbols after the last full group are judged
by the end rule. -/
def Obligations.DecodeIsGroupedValidSymbols : Prop :=
  ∀ (low g : Bool) (sc : Scheme) (text : List Byte),
    let syms := validSymbols low sc text
    let left := leftover sc syms
    (g = false ∧ hasInvalid low sc text = true → decodeText low sc g text = .error .invalidInputSymbol) ∧
    (g = true ∨ hasInvalid low sc text = false →
      (left = [] ∨ sc = .base16 → decodeText low sc g text = .ok (fullGroups sc syms)) ∧
      (left ≠ [] → sc = .base2msbf ∨ sc = .base2lsbf ∨ sc = .z85 →
        decodeText low sc g text = .error .misalignedLength) ∧
      (left ≠ [] → sc = .base64 ∨ sc = .base64url ∨ sc = .base32 ∨ sc = .base32hex →
        decodeText low sc g text = .ok (fullGroups sc syms ++ unpackPartial sc left)))

/-- 42_radix_decode.md R131: a newline or carriage return anywhere in a text changes nothing, in either mode and every
radix scheme. -/
def Obligations.NewlinesAreSkippedAnywhere : Prop :=
  ∀ (low g : Bool) (sc : Scheme) (a b : List Byte) (c : Byte), sc ≠ .z85 → c = 0x0A#8 ∨ c = 0x0D#8 →
    decodeText low sc g (a ++ c :: b) = decodeText low sc g (a ++ b)

/-- 42_radix_decode.md section 1 (92_eei_decisions.md D16) and 43_z85_decode.md section 1 (D10): `=` anywhere in a radix text
changes nothing; in Z85 it is the digit 66. -/
def Obligations.EqualsIsPaddingOrZ85Digit : Prop :=
  (∀ (low g : Bool) (sc : Scheme) (a b : List Byte), sc ≠ .z85 →
    decodeText low sc g (a ++ 0x3D#8 :: b) = decodeText low sc g (a ++ b)) ∧
  (∀ low : Bool, classify low .z85 0x3D#8 = .sym 66)

/-- 42_radix_decode.md R133: a byte of class INV ends a strict scan with InvalidInputSymbol and is skipped, inside a group
too, in ignore-garbage mode. -/
def Obligations.InvalidBytesEndOrAreSkipped : Prop :=
  ∀ (low : Bool) (sc : Scheme) (a b : List Byte) (c : Byte), sc ≠ .z85 → classify low sc c = .inv →
    decodeText low sc false (a ++ c :: b) = .error .invalidInputSymbol ∧
    decodeText low sc true (a ++ c :: b) = decodeText low sc true (a ++ b)

/-- 42_radix_decode.md R138: a base2 text is MisalignedLength exactly where its count of `0` and `1` characters is not a
multiple of 8, in either mode; in strict mode an invalid character has ended the scan before. -/
def Obligations.Base2NeedsMultipleOfEight : Prop :=
  ∀ (low g : Bool) (sc : Scheme) (text : List Byte), sc = .base2msbf ∨ sc = .base2lsbf →
    (g = true ∨ hasInvalid low sc text = false →
      (decodeText low sc g text = .error .misalignedLength ↔
        (text.filter fun c => c == 0x30#8 || c == 0x31#8).length % 8 ≠ 0)) ∧
    (g = false → hasInvalid low sc text = true → decodeText low sc g text = .error .invalidInputSymbol)

/-! Chunks, the line wrapper and whole sessions. -/

/-- 44_stream_engine.md section 2: a scan cut anywhere gives what the whole scan gives, with the group in progress
carried over the cut. -/
def Obligations.ScanMayBeCutAnywhere : Prop :=
  ∀ (low g : Bool) (sc : Scheme) (grp : List Nat) (a b : List Byte),
    scan low sc g grp (a ++ b) =
      (match scan low sc g grp a with
       | .error k => .error k
       | .ok (mid, out) =>
         match scan low sc g mid b with
         | .error k => .error k
         | .ok (left, out') => .ok (left, out ++ out'))

/-- 44_stream_engine.md section 2 and 20_memory.md section 4: an encoding may be cut where a whole number of blocks ends;
40_radix_encode.md R100: and the encoding of one full block is that block packed. -/
def Obligations.EncodingMayBeCutAtBlocks : Prop :=
  (∀ (sc : Scheme) (a b : List Byte), sc ≠ .z85 → a.length % blockBytes sc = 0 →
    encRadix sc (a ++ b) = encRadix sc a ++ encRadix sc b) ∧
  (∀ (sc : Scheme) (blk : List Byte), sc ≠ .z85 → blk.length = blockBytes sc → encRadix sc blk = packFull sc blk) ∧
  (∀ (a b x y : List Byte), encZ85 a = .ok x → encZ85 b = .ok y → encZ85 (a ++ b) = .ok (x ++ y))

/-- 45_line_wrapper.md section 1, functional form: one newline per line of at most `w` symbols, so the length is
`L + ceil(L/w)`; the symbols themselves are unchanged; width 0 changes nothing. -/
def Obligations.WrappedTextKeepsSymbols : Prop :=
  ∀ (w : Nat) (syms : List Byte),
    (w = 0 → wrapText w syms = syms) ∧
    (0 < w → (wrapText w syms).length = syms.length + (syms.length + w - 1) / w) ∧
    (0x0A#8 ∉ syms → (wrapText w syms).filter (· != 0x0A#8) = syms) ∧
    (0 < w → ∀ a b c : List Byte, wrapText w syms = a ++ b ++ c → 0x0A#8 ∉ b → b.length ≤ w)

/-- 45_line_wrapper.md section 1: the DRAIN and FINISH steps of the final chunk of an encode session, from a line start and
with every write accepted, write exactly `Wrap(WRAP, symbols)` and end in DONE. -/
def Obligations.FinalDrainWritesWrappedText : Prop :=
  ∀ (i : Instr) (s : State) (syms : List Byte), modeOf i = .encode → s.params.wf = true → decode s.ctrl = .ok i →
    s.turns = [] → s.phase = .drain → s.eos = true → s.col = 0#32 → s.opos = 0 → s.olen = syms.length →
    readCells s.obuf 0 s.olen = some syms →
    ∀ rest, s.acks = List.replicate (wrapText s.wrap.toNat syms).length .ok ++ rest →
      ∃ n t, Sys2Proof.core.run n s = .next t ∧ t.phase = .done ∧ t.err = s.err ∧ t.acks = rest ∧
        t.output = s.output ++ wrapText s.wrap.toNat syms

/-- 44_stream_engine.md section 2 (R184, R185): for every allowed ENC_CHUNK and DEC_CHUNK, a session of any operation whose
host delivers the input, then EOS, and accepts every write ends as the functional result says: in DONE with exactly that
output, or in ERROR with that kind. What the buffers and CARRY held before does not matter. How much a failed session has
written is not claimed (93_implementation_defined.md U5). -/
def Obligations.SessionMeetsFunctionalResult : Prop :=
  ∀ (i : Instr) (s : State) (inp : List Byte) (rest : List InItem), s.params.wf = true → s.turns = [] →
    s.ctrl = encode i → s.phase = .fill → s.eos = false → s.err = none → s.ilen = 0 → s.olen = 0 → s.opos = 0 →
    s.col = 0#32 → s.carryCnt = 0 → s.input = inp.map .byte ++ .eos :: rest →
    ∃ m, ∀ k, m ≤ k → ∃ n t, Sys2Proof.core.run n { s with acks := List.replicate k .ok } = .next t ∧
      (match sessionResult s.params.b16DecodeLowercase s.wrap i inp with
       | .ok o => t.phase = .done ∧ t.err = none ∧ t.output = s.output ++ o ∧ t.input = rest
       | .error e => t.phase = .error ∧ t.err = some e)

/-! What every step keeps. -/

/-- The invariant of 10_state.md R24, R30, R34, R35, 44_stream_engine.md R174, R189 and 45_line_wrapper.md R207 holds of the
reset state. -/
def Obligations.InvariantHoldsAtReset : Prop := Inv State.reset

/-- Every step keeps the invariant. -/
def Obligations.StepKeepsInvariant : Prop := ∀ s t : State, Inv s → step s = .next t → Inv t

/-- 20_memory.md section 7 and 44_stream_engine.md section 1: a machine that meets the invariant always has its step: it
leaves no buffer's bounds, reads no element it has not written, and stops only where no step is enabled or the host's
answer is missing. The stops and their names are the model's (log 4, log 5). -/
def Obligations.InvariantExcludesInternalStops : Prop :=
  ∀ s : State, Inv s →
    (∃ t, step s = .next t) ∨
    (step s = .fault .waitingForStart ∧ s.phase = .idle) ∨ (step s = .fault .sessionDone ∧ s.phase = .done) ∨
    (step s = .fault .sessionError ∧ s.phase = .error) ∨
    (step s = .fault .blockedInRead ∧ s.phase = .fill ∧ s.input = []) ∨
    (step s = .fault .blockedOutWrite ∧ (s.phase = .drain ∨ s.phase = .finish) ∧ s.acks = [])

/-- Every step keeps both buffers in canonical form, in any state (the form is the model's, log 8). -/
def Obligations.StepKeepsBuffersCanonical : Prop :=
  ∀ s t : State, BuffersCanonical s → step s = .next t → BuffersCanonical t

/-- 45_line_wrapper.md section 1 and 10_state.md section 6: every step keeps 0 <= COL <= WRAP, with COL = 0 where wrapping is
disabled, before a session and in a decode session. -/
def Obligations.StepKeepsColumnWithinWrap : Prop :=
  ∀ s t : State, ColumnInv s → step s = .next t → ColumnInv t

/-- 10_state.md section 5 and 60_exceptions.md section 4: every step keeps that ERR names a kind exactly in ERROR. -/
def Obligations.StepKeepsErrOnlyInError : Prop :=
  ∀ s t : State, ErrorInv s → step s = .next t → ErrorInv t

/-- 20_memory.md section 6 (92_eei_decisions.md D21): outside IDLE, nothing but RESET changes CTRL or WRAP; so the operation
of a session's first step is that of its last. -/
def Obligations.ConfigurationStableInSession : Prop :=
  ∀ s t : State, step s = .next t → s.phase ≠ .idle →
    (t.ctrl = s.ctrl ∧ t.wrap = s.wrap) ∨ ∃ rest, s.turns = .cmd .reset :: rest

/-- What an engine step of each of the sixteen operations leaves unchanged (10_state.md section 1, the columns "written by";
20_memory.md section 1): CTRL and WRAP always; every other register outside the phases that write it; every buffer element
but the ones stored to. That elements at or beyond a length keep their bytes is the model's (log 9). -/
def Obligations.OperationFrame : Prop :=
  ∀ (i : Instr) (s t : State), exec i s = .next t →
    t.ctrl = s.ctrl ∧ t.wrap = s.wrap ∧ t.turns = s.turns ∧ t.readback = s.readback ∧ t.params = s.params ∧
    (t.eos = s.eos ∨ s.phase = .fill ∧ t.eos = true) ∧ (t.err = s.err ∨ t.phase = .error) ∧
    (t.col = s.col ∨ modeOf i = .encode ∧ (s.phase = .drain ∨ s.phase = .finish)) ∧
    (t.carry = s.carry ∧ t.carryCnt = s.carryCnt ∨ modeOf i = .decode ∧ s.phase = .process) ∧
    (t.ilen = s.ilen ∨ s.phase = .fill ∨ s.phase = .drain) ∧ (t.olen = s.olen ∨ s.phase = .process) ∧
    (t.opos = s.opos ∨ s.phase = .process ∨ s.phase = .drain) ∧
    (∀ a, s.phase ≠ .fill ∨ a ≠ s.ilen → readCell t.ibuf a = readCell s.ibuf a) ∧
    (∀ a, s.phase ≠ .process ∨ t.olen ≤ a → readCell t.obuf a = readCell s.obuf a) ∧
    (∀ a, t.carryCnt ≤ a → t.carry.toList[a]? = s.carry.toList[a]?)

/-- 20_memory.md section 1: FILL alone reads the input stream, and takes at most its first item; DRAIN and FINISH alone
write the output stream, at most one byte, with the host's first answer. -/
def Obligations.StreamsTouchedOnlyInTheirPhases : Prop :=
  ∀ (i : Instr) (s t : State), exec i s = .next t →
    (t.input = s.input ∨ s.phase = .fill ∧ ∃ x, s.input = x :: t.input) ∧
    (t.output = s.output ∧ t.acks = s.acks ∨
      (s.phase = .drain ∨ s.phase = .finish) ∧
        ((∃ b, t.output = s.output ++ [b] ∧ s.acks = .ok :: t.acks) ∨
         (t.output = s.output ∧ s.acks = .err :: t.acks ∧ t.phase = .error)))
end

