-- ==== Sys2Proof/Laws/State.lean ====
section
/-! SUPPORT. What every named update of State does to every field, true by unfolding, for simp: later proofs unfold no
record update. -/
namespace Sys2Proof.Machine

/-! `enterPhase`. -/

@[simp] theorem enterPhase_ctrl (p : Phase) (s : State) : (enterPhase p s).ctrl = s.ctrl := rfl
@[simp] theorem enterPhase_wrap (p : Phase) (s : State) : (enterPhase p s).wrap = s.wrap := rfl
@[simp] theorem enterPhase_phase (p : Phase) (s : State) : (enterPhase p s).phase = p := rfl
@[simp] theorem enterPhase_eos (p : Phase) (s : State) : (enterPhase p s).eos = s.eos := rfl
@[simp] theorem enterPhase_err (p : Phase) (s : State) : (enterPhase p s).err = s.err := rfl
@[simp] theorem enterPhase_col (p : Phase) (s : State) : (enterPhase p s).col = s.col := rfl
@[simp] theorem enterPhase_ibuf (p : Phase) (s : State) : (enterPhase p s).ibuf = s.ibuf := rfl
@[simp] theorem enterPhase_ilen (p : Phase) (s : State) : (enterPhase p s).ilen = s.ilen := rfl
@[simp] theorem enterPhase_obuf (p : Phase) (s : State) : (enterPhase p s).obuf = s.obuf := rfl
@[simp] theorem enterPhase_olen (p : Phase) (s : State) : (enterPhase p s).olen = s.olen := rfl
@[simp] theorem enterPhase_opos (p : Phase) (s : State) : (enterPhase p s).opos = s.opos := rfl
@[simp] theorem enterPhase_carry (p : Phase) (s : State) : (enterPhase p s).carry = s.carry := rfl
@[simp] theorem enterPhase_carryCnt (p : Phase) (s : State) : (enterPhase p s).carryCnt = s.carryCnt := rfl
@[simp] theorem enterPhase_input (p : Phase) (s : State) : (enterPhase p s).input = s.input := rfl
@[simp] theorem enterPhase_acks (p : Phase) (s : State) : (enterPhase p s).acks = s.acks := rfl
@[simp] theorem enterPhase_output (p : Phase) (s : State) : (enterPhase p s).output = s.output := rfl
@[simp] theorem enterPhase_turns (p : Phase) (s : State) : (enterPhase p s).turns = s.turns := rfl
@[simp] theorem enterPhase_readback (p : Phase) (s : State) : (enterPhase p s).readback = s.readback := rfl
@[simp] theorem enterPhase_params (p : Phase) (s : State) : (enterPhase p s).params = s.params := rfl

/-! `raise`. -/

@[simp] theorem raise_ctrl (k : ErrorKind) (s : State) : (raise k s).ctrl = s.ctrl := rfl
@[simp] theorem raise_wrap (k : ErrorKind) (s : State) : (raise k s).wrap = s.wrap := rfl
@[simp] theorem raise_phase (k : ErrorKind) (s : State) : (raise k s).phase = .error := rfl
@[simp] theorem raise_eos (k : ErrorKind) (s : State) : (raise k s).eos = s.eos := rfl
@[simp] theorem raise_err (k : ErrorKind) (s : State) : (raise k s).err = some k := rfl
@[simp] theorem raise_col (k : ErrorKind) (s : State) : (raise k s).col = s.col := rfl
@[simp] theorem raise_ibuf (k : ErrorKind) (s : State) : (raise k s).ibuf = s.ibuf := rfl
@[simp] theorem raise_ilen (k : ErrorKind) (s : State) : (raise k s).ilen = s.ilen := rfl
@[simp] theorem raise_obuf (k : ErrorKind) (s : State) : (raise k s).obuf = s.obuf := rfl
@[simp] theorem raise_olen (k : ErrorKind) (s : State) : (raise k s).olen = s.olen := rfl
@[simp] theorem raise_opos (k : ErrorKind) (s : State) : (raise k s).opos = s.opos := rfl
@[simp] theorem raise_carry (k : ErrorKind) (s : State) : (raise k s).carry = s.carry := rfl
@[simp] theorem raise_carryCnt (k : ErrorKind) (s : State) : (raise k s).carryCnt = s.carryCnt := rfl
@[simp] theorem raise_input (k : ErrorKind) (s : State) : (raise k s).input = s.input := rfl
@[simp] theorem raise_acks (k : ErrorKind) (s : State) : (raise k s).acks = s.acks := rfl
@[simp] theorem raise_output (k : ErrorKind) (s : State) : (raise k s).output = s.output := rfl
@[simp] theorem raise_turns (k : ErrorKind) (s : State) : (raise k s).turns = s.turns := rfl
@[simp] theorem raise_readback (k : ErrorKind) (s : State) : (raise k s).readback = s.readback := rfl
@[simp] theorem raise_params (k : ErrorKind) (s : State) : (raise k s).params = s.params := rfl

/-! `setEos`. -/

@[simp] theorem setEos_ctrl (s : State) : (setEos s).ctrl = s.ctrl := rfl
@[simp] theorem setEos_wrap (s : State) : (setEos s).wrap = s.wrap := rfl
@[simp] theorem setEos_phase (s : State) : (setEos s).phase = s.phase := rfl
@[simp] theorem setEos_eos (s : State) : (setEos s).eos = true := rfl
@[simp] theorem setEos_err (s : State) : (setEos s).err = s.err := rfl
@[simp] theorem setEos_col (s : State) : (setEos s).col = s.col := rfl
@[simp] theorem setEos_ibuf (s : State) : (setEos s).ibuf = s.ibuf := rfl
@[simp] theorem setEos_ilen (s : State) : (setEos s).ilen = s.ilen := rfl
@[simp] theorem setEos_obuf (s : State) : (setEos s).obuf = s.obuf := rfl
@[simp] theorem setEos_olen (s : State) : (setEos s).olen = s.olen := rfl
@[simp] theorem setEos_opos (s : State) : (setEos s).opos = s.opos := rfl
@[simp] theorem setEos_carry (s : State) : (setEos s).carry = s.carry := rfl
@[simp] theorem setEos_carryCnt (s : State) : (setEos s).carryCnt = s.carryCnt := rfl
@[simp] theorem setEos_input (s : State) : (setEos s).input = s.input := rfl
@[simp] theorem setEos_acks (s : State) : (setEos s).acks = s.acks := rfl
@[simp] theorem setEos_output (s : State) : (setEos s).output = s.output := rfl
@[simp] theorem setEos_turns (s : State) : (setEos s).turns = s.turns := rfl
@[simp] theorem setEos_readback (s : State) : (setEos s).readback = s.readback := rfl
@[simp] theorem setEos_params (s : State) : (setEos s).params = s.params := rfl

/-! `clearEos`. -/

@[simp] theorem clearEos_ctrl (s : State) : (clearEos s).ctrl = s.ctrl := rfl
@[simp] theorem clearEos_wrap (s : State) : (clearEos s).wrap = s.wrap := rfl
@[simp] theorem clearEos_phase (s : State) : (clearEos s).phase = s.phase := rfl
@[simp] theorem clearEos_eos (s : State) : (clearEos s).eos = false := rfl
@[simp] theorem clearEos_err (s : State) : (clearEos s).err = s.err := rfl
@[simp] theorem clearEos_col (s : State) : (clearEos s).col = s.col := rfl
@[simp] theorem clearEos_ibuf (s : State) : (clearEos s).ibuf = s.ibuf := rfl
@[simp] theorem clearEos_ilen (s : State) : (clearEos s).ilen = s.ilen := rfl
@[simp] theorem clearEos_obuf (s : State) : (clearEos s).obuf = s.obuf := rfl
@[simp] theorem clearEos_olen (s : State) : (clearEos s).olen = s.olen := rfl
@[simp] theorem clearEos_opos (s : State) : (clearEos s).opos = s.opos := rfl
@[simp] theorem clearEos_carry (s : State) : (clearEos s).carry = s.carry := rfl
@[simp] theorem clearEos_carryCnt (s : State) : (clearEos s).carryCnt = s.carryCnt := rfl
@[simp] theorem clearEos_input (s : State) : (clearEos s).input = s.input := rfl
@[simp] theorem clearEos_acks (s : State) : (clearEos s).acks = s.acks := rfl
@[simp] theorem clearEos_output (s : State) : (clearEos s).output = s.output := rfl
@[simp] theorem clearEos_turns (s : State) : (clearEos s).turns = s.turns := rfl
@[simp] theorem clearEos_readback (s : State) : (clearEos s).readback = s.readback := rfl
@[simp] theorem clearEos_params (s : State) : (clearEos s).params = s.params := rfl

/-! `beginSession`. -/

@[simp] theorem beginSession_ctrl (s : State) : (beginSession s).ctrl = s.ctrl := rfl
@[simp] theorem beginSession_wrap (s : State) : (beginSession s).wrap = s.wrap := rfl
@[simp] theorem beginSession_phase (s : State) : (beginSession s).phase = .fill := rfl
@[simp] theorem beginSession_eos (s : State) : (beginSession s).eos = false := rfl
@[simp] theorem beginSession_err (s : State) : (beginSession s).err = none := rfl
@[simp] theorem beginSession_col (s : State) : (beginSession s).col = 0#32 := rfl
@[simp] theorem beginSession_ibuf (s : State) : (beginSession s).ibuf = s.ibuf := rfl
@[simp] theorem beginSession_ilen (s : State) : (beginSession s).ilen = 0 := rfl
@[simp] theorem beginSession_obuf (s : State) : (beginSession s).obuf = s.obuf := rfl
@[simp] theorem beginSession_olen (s : State) : (beginSession s).olen = 0 := rfl
@[simp] theorem beginSession_opos (s : State) : (beginSession s).opos = 0 := rfl
@[simp] theorem beginSession_carry (s : State) : (beginSession s).carry = s.carry := rfl
@[simp] theorem beginSession_carryCnt (s : State) : (beginSession s).carryCnt = 0 := rfl
@[simp] theorem beginSession_input (s : State) : (beginSession s).input = s.input := rfl
@[simp] theorem beginSession_acks (s : State) : (beginSession s).acks = s.acks := rfl
@[simp] theorem beginSession_output (s : State) : (beginSession s).output = s.output := rfl
@[simp] theorem beginSession_turns (s : State) : (beginSession s).turns = s.turns := rfl
@[simp] theorem beginSession_readback (s : State) : (beginSession s).readback = s.readback := rfl
@[simp] theorem beginSession_params (s : State) : (beginSession s).params = s.params := rfl

/-! `resetEngine`. -/

@[simp] theorem resetEngine_ctrl (s : State) : (resetEngine s).ctrl = 0x00#8 := rfl
@[simp] theorem resetEngine_wrap (s : State) : (resetEngine s).wrap = wrapDefault := rfl
@[simp] theorem resetEngine_phase (s : State) : (resetEngine s).phase = .idle := rfl
@[simp] theorem resetEngine_eos (s : State) : (resetEngine s).eos = false := rfl
@[simp] theorem resetEngine_err (s : State) : (resetEngine s).err = none := rfl
@[simp] theorem resetEngine_col (s : State) : (resetEngine s).col = 0#32 := rfl
@[simp] theorem resetEngine_ibuf (s : State) : (resetEngine s).ibuf = [] := rfl
@[simp] theorem resetEngine_ilen (s : State) : (resetEngine s).ilen = 0 := rfl
@[simp] theorem resetEngine_obuf (s : State) : (resetEngine s).obuf = [] := rfl
@[simp] theorem resetEngine_olen (s : State) : (resetEngine s).olen = 0 := rfl
@[simp] theorem resetEngine_opos (s : State) : (resetEngine s).opos = 0 := rfl
@[simp] theorem resetEngine_carry (s : State) : (resetEngine s).carry = carryAtReset := rfl
@[simp] theorem resetEngine_carryCnt (s : State) : (resetEngine s).carryCnt = 0 := rfl
@[simp] theorem resetEngine_input (s : State) : (resetEngine s).input = s.input := rfl
@[simp] theorem resetEngine_acks (s : State) : (resetEngine s).acks = s.acks := rfl
@[simp] theorem resetEngine_output (s : State) : (resetEngine s).output = s.output := rfl
@[simp] theorem resetEngine_turns (s : State) : (resetEngine s).turns = s.turns := rfl
@[simp] theorem resetEngine_readback (s : State) : (resetEngine s).readback = s.readback := rfl
@[simp] theorem resetEngine_params (s : State) : (resetEngine s).params = s.params := rfl

/-! `consumeItem`. -/

@[simp] theorem consumeItem_ctrl (r : List InItem) (s : State) : (consumeItem r s).ctrl = s.ctrl := rfl
@[simp] theorem consumeItem_wrap (r : List InItem) (s : State) : (consumeItem r s).wrap = s.wrap := rfl
@[simp] theorem consumeItem_phase (r : List InItem) (s : State) : (consumeItem r s).phase = s.phase := rfl
@[simp] theorem consumeItem_eos (r : List InItem) (s : State) : (consumeItem r s).eos = s.eos := rfl
@[simp] theorem consumeItem_err (r : List InItem) (s : State) : (consumeItem r s).err = s.err := rfl
@[simp] theorem consumeItem_col (r : List InItem) (s : State) : (consumeItem r s).col = s.col := rfl
@[simp] theorem consumeItem_ibuf (r : List InItem) (s : State) : (consumeItem r s).ibuf = s.ibuf := rfl
@[simp] theorem consumeItem_ilen (r : List InItem) (s : State) : (consumeItem r s).ilen = s.ilen := rfl
@[simp] theorem consumeItem_obuf (r : List InItem) (s : State) : (consumeItem r s).obuf = s.obuf := rfl
@[simp] theorem consumeItem_olen (r : List InItem) (s : State) : (consumeItem r s).olen = s.olen := rfl
@[simp] theorem consumeItem_opos (r : List InItem) (s : State) : (consumeItem r s).opos = s.opos := rfl
@[simp] theorem consumeItem_carry (r : List InItem) (s : State) : (consumeItem r s).carry = s.carry := rfl
@[simp] theorem consumeItem_carryCnt (r : List InItem) (s : State) : (consumeItem r s).carryCnt = s.carryCnt := rfl
@[simp] theorem consumeItem_input (r : List InItem) (s : State) : (consumeItem r s).input = r := rfl
@[simp] theorem consumeItem_acks (r : List InItem) (s : State) : (consumeItem r s).acks = s.acks := rfl
@[simp] theorem consumeItem_output (r : List InItem) (s : State) : (consumeItem r s).output = s.output := rfl
@[simp] theorem consumeItem_turns (r : List InItem) (s : State) : (consumeItem r s).turns = s.turns := rfl
@[simp] theorem consumeItem_readback (r : List InItem) (s : State) : (consumeItem r s).readback = s.readback := rfl
@[simp] theorem consumeItem_params (r : List InItem) (s : State) : (consumeItem r s).params = s.params := rfl

/-! `acceptByte`. -/

@[simp] theorem acceptByte_ctrl (b : Byte) (r : List OutAnswer) (s : State) : (acceptByte b r s).ctrl = s.ctrl := rfl
@[simp] theorem acceptByte_wrap (b : Byte) (r : List OutAnswer) (s : State) : (acceptByte b r s).wrap = s.wrap := rfl
@[simp] theorem acceptByte_phase (b : Byte) (r : List OutAnswer) (s : State) : (acceptByte b r s).phase = s.phase := rfl
@[simp] theorem acceptByte_eos (b : Byte) (r : List OutAnswer) (s : State) : (acceptByte b r s).eos = s.eos := rfl
@[simp] theorem acceptByte_err (b : Byte) (r : List OutAnswer) (s : State) : (acceptByte b r s).err = s.err := rfl
@[simp] theorem acceptByte_col (b : Byte) (r : List OutAnswer) (s : State) : (acceptByte b r s).col = s.col := rfl
@[simp] theorem acceptByte_ibuf (b : Byte) (r : List OutAnswer) (s : State) : (acceptByte b r s).ibuf = s.ibuf := rfl
@[simp] theorem acceptByte_ilen (b : Byte) (r : List OutAnswer) (s : State) : (acceptByte b r s).ilen = s.ilen := rfl
@[simp] theorem acceptByte_obuf (b : Byte) (r : List OutAnswer) (s : State) : (acceptByte b r s).obuf = s.obuf := rfl
@[simp] theorem acceptByte_olen (b : Byte) (r : List OutAnswer) (s : State) : (acceptByte b r s).olen = s.olen := rfl
@[simp] theorem acceptByte_opos (b : Byte) (r : List OutAnswer) (s : State) : (acceptByte b r s).opos = s.opos := rfl
@[simp] theorem acceptByte_carry (b : Byte) (r : List OutAnswer) (s : State) : (acceptByte b r s).carry = s.carry := rfl
@[simp] theorem acceptByte_carryCnt (b : Byte) (r : List OutAnswer) (s : State) : (acceptByte b r s).carryCnt = s.carryCnt := rfl
@[simp] theorem acceptByte_input (b : Byte) (r : List OutAnswer) (s : State) : (acceptByte b r s).input = s.input := rfl
@[simp] theorem acceptByte_acks (b : Byte) (r : List OutAnswer) (s : State) : (acceptByte b r s).acks = r := rfl
@[simp] theorem acceptByte_output (b : Byte) (r : List OutAnswer) (s : State) : (acceptByte b r s).output = s.output ++ [b] := rfl
@[simp] theorem acceptByte_turns (b : Byte) (r : List OutAnswer) (s : State) : (acceptByte b r s).turns = s.turns := rfl
@[simp] theorem acceptByte_readback (b : Byte) (r : List OutAnswer) (s : State) : (acceptByte b r s).readback = s.readback := rfl
@[simp] theorem acceptByte_params (b : Byte) (r : List OutAnswer) (s : State) : (acceptByte b r s).params = s.params := rfl

/-! `refuseByte`. -/

@[simp] theorem refuseByte_ctrl (r : List OutAnswer) (s : State) : (refuseByte r s).ctrl = s.ctrl := rfl
@[simp] theorem refuseByte_wrap (r : List OutAnswer) (s : State) : (refuseByte r s).wrap = s.wrap := rfl
@[simp] theorem refuseByte_phase (r : List OutAnswer) (s : State) : (refuseByte r s).phase = s.phase := rfl
@[simp] theorem refuseByte_eos (r : List OutAnswer) (s : State) : (refuseByte r s).eos = s.eos := rfl
@[simp] theorem refuseByte_err (r : List OutAnswer) (s : State) : (refuseByte r s).err = s.err := rfl
@[simp] theorem refuseByte_col (r : List OutAnswer) (s : State) : (refuseByte r s).col = s.col := rfl
@[simp] theorem refuseByte_ibuf (r : List OutAnswer) (s : State) : (refuseByte r s).ibuf = s.ibuf := rfl
@[simp] theorem refuseByte_ilen (r : List OutAnswer) (s : State) : (refuseByte r s).ilen = s.ilen := rfl
@[simp] theorem refuseByte_obuf (r : List OutAnswer) (s : State) : (refuseByte r s).obuf = s.obuf := rfl
@[simp] theorem refuseByte_olen (r : List OutAnswer) (s : State) : (refuseByte r s).olen = s.olen := rfl
@[simp] theorem refuseByte_opos (r : List OutAnswer) (s : State) : (refuseByte r s).opos = s.opos := rfl
@[simp] theorem refuseByte_carry (r : List OutAnswer) (s : State) : (refuseByte r s).carry = s.carry := rfl
@[simp] theorem refuseByte_carryCnt (r : List OutAnswer) (s : State) : (refuseByte r s).carryCnt = s.carryCnt := rfl
@[simp] theorem refuseByte_input (r : List OutAnswer) (s : State) : (refuseByte r s).input = s.input := rfl
@[simp] theorem refuseByte_acks (r : List OutAnswer) (s : State) : (refuseByte r s).acks = r := rfl
@[simp] theorem refuseByte_output (r : List OutAnswer) (s : State) : (refuseByte r s).output = s.output := rfl
@[simp] theorem refuseByte_turns (r : List OutAnswer) (s : State) : (refuseByte r s).turns = s.turns := rfl
@[simp] theorem refuseByte_readback (r : List OutAnswer) (s : State) : (refuseByte r s).readback = s.readback := rfl
@[simp] theorem refuseByte_params (r : List OutAnswer) (s : State) : (refuseByte r s).params = s.params := rfl

/-! `pushByte`. -/

@[simp] theorem pushByte_ctrl (b : Byte) (s : State) : (pushByte b s).ctrl = s.ctrl := rfl
@[simp] theorem pushByte_wrap (b : Byte) (s : State) : (pushByte b s).wrap = s.wrap := rfl
@[simp] theorem pushByte_phase (b : Byte) (s : State) : (pushByte b s).phase = s.phase := rfl
@[simp] theorem pushByte_eos (b : Byte) (s : State) : (pushByte b s).eos = s.eos := rfl
@[simp] theorem pushByte_err (b : Byte) (s : State) : (pushByte b s).err = s.err := rfl
@[simp] theorem pushByte_col (b : Byte) (s : State) : (pushByte b s).col = s.col := rfl
@[simp] theorem pushByte_ibuf (b : Byte) (s : State) : (pushByte b s).ibuf = writeCell s.ibuf s.ilen b := rfl
@[simp] theorem pushByte_ilen (b : Byte) (s : State) : (pushByte b s).ilen = s.ilen + 1 := rfl
@[simp] theorem pushByte_obuf (b : Byte) (s : State) : (pushByte b s).obuf = s.obuf := rfl
@[simp] theorem pushByte_olen (b : Byte) (s : State) : (pushByte b s).olen = s.olen := rfl
@[simp] theorem pushByte_opos (b : Byte) (s : State) : (pushByte b s).opos = s.opos := rfl
@[simp] theorem pushByte_carry (b : Byte) (s : State) : (pushByte b s).carry = s.carry := rfl
@[simp] theorem pushByte_carryCnt (b : Byte) (s : State) : (pushByte b s).carryCnt = s.carryCnt := rfl
@[simp] theorem pushByte_input (b : Byte) (s : State) : (pushByte b s).input = s.input := rfl
@[simp] theorem pushByte_acks (b : Byte) (s : State) : (pushByte b s).acks = s.acks := rfl
@[simp] theorem pushByte_output (b : Byte) (s : State) : (pushByte b s).output = s.output := rfl
@[simp] theorem pushByte_turns (b : Byte) (s : State) : (pushByte b s).turns = s.turns := rfl
@[simp] theorem pushByte_readback (b : Byte) (s : State) : (pushByte b s).readback = s.readback := rfl
@[simp] theorem pushByte_params (b : Byte) (s : State) : (pushByte b s).params = s.params := rfl

/-! `commitOutput`. -/

@[simp] theorem commitOutput_ctrl (out : List Byte) (s : State) : (commitOutput out s).ctrl = s.ctrl := rfl
@[simp] theorem commitOutput_wrap (out : List Byte) (s : State) : (commitOutput out s).wrap = s.wrap := rfl
@[simp] theorem commitOutput_phase (out : List Byte) (s : State) : (commitOutput out s).phase = .drain := rfl
@[simp] theorem commitOutput_eos (out : List Byte) (s : State) : (commitOutput out s).eos = s.eos := rfl
@[simp] theorem commitOutput_err (out : List Byte) (s : State) : (commitOutput out s).err = s.err := rfl
@[simp] theorem commitOutput_col (out : List Byte) (s : State) : (commitOutput out s).col = s.col := rfl
@[simp] theorem commitOutput_ibuf (out : List Byte) (s : State) : (commitOutput out s).ibuf = s.ibuf := rfl
@[simp] theorem commitOutput_ilen (out : List Byte) (s : State) : (commitOutput out s).ilen = s.ilen := rfl
@[simp] theorem commitOutput_obuf (out : List Byte) (s : State) : (commitOutput out s).obuf = writeCells s.obuf 0 out := rfl
@[simp] theorem commitOutput_olen (out : List Byte) (s : State) : (commitOutput out s).olen = out.length := rfl
@[simp] theorem commitOutput_opos (out : List Byte) (s : State) : (commitOutput out s).opos = 0 := rfl
@[simp] theorem commitOutput_carry (out : List Byte) (s : State) : (commitOutput out s).carry = s.carry := rfl
@[simp] theorem commitOutput_carryCnt (out : List Byte) (s : State) : (commitOutput out s).carryCnt = s.carryCnt := rfl
@[simp] theorem commitOutput_input (out : List Byte) (s : State) : (commitOutput out s).input = s.input := rfl
@[simp] theorem commitOutput_acks (out : List Byte) (s : State) : (commitOutput out s).acks = s.acks := rfl
@[simp] theorem commitOutput_output (out : List Byte) (s : State) : (commitOutput out s).output = s.output := rfl
@[simp] theorem commitOutput_turns (out : List Byte) (s : State) : (commitOutput out s).turns = s.turns := rfl
@[simp] theorem commitOutput_readback (out : List Byte) (s : State) : (commitOutput out s).readback = s.readback := rfl
@[simp] theorem commitOutput_params (out : List Byte) (s : State) : (commitOutput out s).params = s.params := rfl

/-! `keepGroup`. -/

@[simp] theorem keepGroup_ctrl (grp : List Nat) (h : grp.length < 8) (s : State) : (keepGroup grp h s).ctrl = s.ctrl := rfl
@[simp] theorem keepGroup_wrap (grp : List Nat) (h : grp.length < 8) (s : State) : (keepGroup grp h s).wrap = s.wrap := rfl
@[simp] theorem keepGroup_phase (grp : List Nat) (h : grp.length < 8) (s : State) : (keepGroup grp h s).phase = s.phase := rfl
@[simp] theorem keepGroup_eos (grp : List Nat) (h : grp.length < 8) (s : State) : (keepGroup grp h s).eos = s.eos := rfl
@[simp] theorem keepGroup_err (grp : List Nat) (h : grp.length < 8) (s : State) : (keepGroup grp h s).err = s.err := rfl
@[simp] theorem keepGroup_col (grp : List Nat) (h : grp.length < 8) (s : State) : (keepGroup grp h s).col = s.col := rfl
@[simp] theorem keepGroup_ibuf (grp : List Nat) (h : grp.length < 8) (s : State) : (keepGroup grp h s).ibuf = s.ibuf := rfl
@[simp] theorem keepGroup_ilen (grp : List Nat) (h : grp.length < 8) (s : State) : (keepGroup grp h s).ilen = s.ilen := rfl
@[simp] theorem keepGroup_obuf (grp : List Nat) (h : grp.length < 8) (s : State) : (keepGroup grp h s).obuf = s.obuf := rfl
@[simp] theorem keepGroup_olen (grp : List Nat) (h : grp.length < 8) (s : State) : (keepGroup grp h s).olen = s.olen := rfl
@[simp] theorem keepGroup_opos (grp : List Nat) (h : grp.length < 8) (s : State) : (keepGroup grp h s).opos = s.opos := rfl
@[simp] theorem keepGroup_carry (grp : List Nat) (h : grp.length < 8) (s : State) : (keepGroup grp h s).carry = storeCarry s.carry grp h := rfl
@[simp] theorem keepGroup_carryCnt (grp : List Nat) (h : grp.length < 8) (s : State) : (keepGroup grp h s).carryCnt = grp.length := rfl
@[simp] theorem keepGroup_input (grp : List Nat) (h : grp.length < 8) (s : State) : (keepGroup grp h s).input = s.input := rfl
@[simp] theorem keepGroup_acks (grp : List Nat) (h : grp.length < 8) (s : State) : (keepGroup grp h s).acks = s.acks := rfl
@[simp] theorem keepGroup_output (grp : List Nat) (h : grp.length < 8) (s : State) : (keepGroup grp h s).output = s.output := rfl
@[simp] theorem keepGroup_turns (grp : List Nat) (h : grp.length < 8) (s : State) : (keepGroup grp h s).turns = s.turns := rfl
@[simp] theorem keepGroup_readback (grp : List Nat) (h : grp.length < 8) (s : State) : (keepGroup grp h s).readback = s.readback := rfl
@[simp] theorem keepGroup_params (grp : List Nat) (h : grp.length < 8) (s : State) : (keepGroup grp h s).params = s.params := rfl

/-! `clearCarry`. -/

@[simp] theorem clearCarry_ctrl (s : State) : (clearCarry s).ctrl = s.ctrl := rfl
@[simp] theorem clearCarry_wrap (s : State) : (clearCarry s).wrap = s.wrap := rfl
@[simp] theorem clearCarry_phase (s : State) : (clearCarry s).phase = s.phase := rfl
@[simp] theorem clearCarry_eos (s : State) : (clearCarry s).eos = s.eos := rfl
@[simp] theorem clearCarry_err (s : State) : (clearCarry s).err = s.err := rfl
@[simp] theorem clearCarry_col (s : State) : (clearCarry s).col = s.col := rfl
@[simp] theorem clearCarry_ibuf (s : State) : (clearCarry s).ibuf = s.ibuf := rfl
@[simp] theorem clearCarry_ilen (s : State) : (clearCarry s).ilen = s.ilen := rfl
@[simp] theorem clearCarry_obuf (s : State) : (clearCarry s).obuf = s.obuf := rfl
@[simp] theorem clearCarry_olen (s : State) : (clearCarry s).olen = s.olen := rfl
@[simp] theorem clearCarry_opos (s : State) : (clearCarry s).opos = s.opos := rfl
@[simp] theorem clearCarry_carry (s : State) : (clearCarry s).carry = s.carry := rfl
@[simp] theorem clearCarry_carryCnt (s : State) : (clearCarry s).carryCnt = 0 := rfl
@[simp] theorem clearCarry_input (s : State) : (clearCarry s).input = s.input := rfl
@[simp] theorem clearCarry_acks (s : State) : (clearCarry s).acks = s.acks := rfl
@[simp] theorem clearCarry_output (s : State) : (clearCarry s).output = s.output := rfl
@[simp] theorem clearCarry_turns (s : State) : (clearCarry s).turns = s.turns := rfl
@[simp] theorem clearCarry_readback (s : State) : (clearCarry s).readback = s.readback := rfl
@[simp] theorem clearCarry_params (s : State) : (clearCarry s).params = s.params := rfl

/-! `advanceOpos`. -/

@[simp] theorem advanceOpos_ctrl (s : State) : (advanceOpos s).ctrl = s.ctrl := rfl
@[simp] theorem advanceOpos_wrap (s : State) : (advanceOpos s).wrap = s.wrap := rfl
@[simp] theorem advanceOpos_phase (s : State) : (advanceOpos s).phase = s.phase := rfl
@[simp] theorem advanceOpos_eos (s : State) : (advanceOpos s).eos = s.eos := rfl
@[simp] theorem advanceOpos_err (s : State) : (advanceOpos s).err = s.err := rfl
@[simp] theorem advanceOpos_col (s : State) : (advanceOpos s).col = s.col := rfl
@[simp] theorem advanceOpos_ibuf (s : State) : (advanceOpos s).ibuf = s.ibuf := rfl
@[simp] theorem advanceOpos_ilen (s : State) : (advanceOpos s).ilen = s.ilen := rfl
@[simp] theorem advanceOpos_obuf (s : State) : (advanceOpos s).obuf = s.obuf := rfl
@[simp] theorem advanceOpos_olen (s : State) : (advanceOpos s).olen = s.olen := rfl
@[simp] theorem advanceOpos_opos (s : State) : (advanceOpos s).opos = s.opos + 1 := rfl
@[simp] theorem advanceOpos_carry (s : State) : (advanceOpos s).carry = s.carry := rfl
@[simp] theorem advanceOpos_carryCnt (s : State) : (advanceOpos s).carryCnt = s.carryCnt := rfl
@[simp] theorem advanceOpos_input (s : State) : (advanceOpos s).input = s.input := rfl
@[simp] theorem advanceOpos_acks (s : State) : (advanceOpos s).acks = s.acks := rfl
@[simp] theorem advanceOpos_output (s : State) : (advanceOpos s).output = s.output := rfl
@[simp] theorem advanceOpos_turns (s : State) : (advanceOpos s).turns = s.turns := rfl
@[simp] theorem advanceOpos_readback (s : State) : (advanceOpos s).readback = s.readback := rfl
@[simp] theorem advanceOpos_params (s : State) : (advanceOpos s).params = s.params := rfl

/-! `clearCol`. -/

@[simp] theorem clearCol_ctrl (s : State) : (clearCol s).ctrl = s.ctrl := rfl
@[simp] theorem clearCol_wrap (s : State) : (clearCol s).wrap = s.wrap := rfl
@[simp] theorem clearCol_phase (s : State) : (clearCol s).phase = s.phase := rfl
@[simp] theorem clearCol_eos (s : State) : (clearCol s).eos = s.eos := rfl
@[simp] theorem clearCol_err (s : State) : (clearCol s).err = s.err := rfl
@[simp] theorem clearCol_col (s : State) : (clearCol s).col = 0#32 := rfl
@[simp] theorem clearCol_ibuf (s : State) : (clearCol s).ibuf = s.ibuf := rfl
@[simp] theorem clearCol_ilen (s : State) : (clearCol s).ilen = s.ilen := rfl
@[simp] theorem clearCol_obuf (s : State) : (clearCol s).obuf = s.obuf := rfl
@[simp] theorem clearCol_olen (s : State) : (clearCol s).olen = s.olen := rfl
@[simp] theorem clearCol_opos (s : State) : (clearCol s).opos = s.opos := rfl
@[simp] theorem clearCol_carry (s : State) : (clearCol s).carry = s.carry := rfl
@[simp] theorem clearCol_carryCnt (s : State) : (clearCol s).carryCnt = s.carryCnt := rfl
@[simp] theorem clearCol_input (s : State) : (clearCol s).input = s.input := rfl
@[simp] theorem clearCol_acks (s : State) : (clearCol s).acks = s.acks := rfl
@[simp] theorem clearCol_output (s : State) : (clearCol s).output = s.output := rfl
@[simp] theorem clearCol_turns (s : State) : (clearCol s).turns = s.turns := rfl
@[simp] theorem clearCol_readback (s : State) : (clearCol s).readback = s.readback := rfl
@[simp] theorem clearCol_params (s : State) : (clearCol s).params = s.params := rfl

/-! `dropTurn`. -/

@[simp] theorem dropTurn_ctrl (s : State) : (dropTurn s).ctrl = s.ctrl := rfl
@[simp] theorem dropTurn_wrap (s : State) : (dropTurn s).wrap = s.wrap := rfl
@[simp] theorem dropTurn_phase (s : State) : (dropTurn s).phase = s.phase := rfl
@[simp] theorem dropTurn_eos (s : State) : (dropTurn s).eos = s.eos := rfl
@[simp] theorem dropTurn_err (s : State) : (dropTurn s).err = s.err := rfl
@[simp] theorem dropTurn_col (s : State) : (dropTurn s).col = s.col := rfl
@[simp] theorem dropTurn_ibuf (s : State) : (dropTurn s).ibuf = s.ibuf := rfl
@[simp] theorem dropTurn_ilen (s : State) : (dropTurn s).ilen = s.ilen := rfl
@[simp] theorem dropTurn_obuf (s : State) : (dropTurn s).obuf = s.obuf := rfl
@[simp] theorem dropTurn_olen (s : State) : (dropTurn s).olen = s.olen := rfl
@[simp] theorem dropTurn_opos (s : State) : (dropTurn s).opos = s.opos := rfl
@[simp] theorem dropTurn_carry (s : State) : (dropTurn s).carry = s.carry := rfl
@[simp] theorem dropTurn_carryCnt (s : State) : (dropTurn s).carryCnt = s.carryCnt := rfl
@[simp] theorem dropTurn_input (s : State) : (dropTurn s).input = s.input := rfl
@[simp] theorem dropTurn_acks (s : State) : (dropTurn s).acks = s.acks := rfl
@[simp] theorem dropTurn_output (s : State) : (dropTurn s).output = s.output := rfl
@[simp] theorem dropTurn_turns (s : State) : (dropTurn s).turns = s.turns.tail := rfl
@[simp] theorem dropTurn_readback (s : State) : (dropTurn s).readback = s.readback := rfl
@[simp] theorem dropTurn_params (s : State) : (dropTurn s).params = s.params := rfl

/-! `placeOperation`. -/

@[simp] theorem placeOperation_ctrl (w : Nat) (s : State) : (placeOperation w s).ctrl = BitVec.ofNat 8 w := rfl
@[simp] theorem placeOperation_wrap (w : Nat) (s : State) : (placeOperation w s).wrap = s.wrap := rfl
@[simp] theorem placeOperation_phase (w : Nat) (s : State) : (placeOperation w s).phase = .process := rfl
@[simp] theorem placeOperation_eos (w : Nat) (s : State) : (placeOperation w s).eos = true := rfl
@[simp] theorem placeOperation_err (w : Nat) (s : State) : (placeOperation w s).err = s.err := rfl
@[simp] theorem placeOperation_col (w : Nat) (s : State) : (placeOperation w s).col = s.col := rfl
@[simp] theorem placeOperation_ibuf (w : Nat) (s : State) : (placeOperation w s).ibuf = s.ibuf := rfl
@[simp] theorem placeOperation_ilen (w : Nat) (s : State) : (placeOperation w s).ilen = s.ilen := rfl
@[simp] theorem placeOperation_obuf (w : Nat) (s : State) : (placeOperation w s).obuf = s.obuf := rfl
@[simp] theorem placeOperation_olen (w : Nat) (s : State) : (placeOperation w s).olen = s.olen := rfl
@[simp] theorem placeOperation_opos (w : Nat) (s : State) : (placeOperation w s).opos = s.opos := rfl
@[simp] theorem placeOperation_carry (w : Nat) (s : State) : (placeOperation w s).carry = s.carry := rfl
@[simp] theorem placeOperation_carryCnt (w : Nat) (s : State) : (placeOperation w s).carryCnt = s.carryCnt := rfl
@[simp] theorem placeOperation_input (w : Nat) (s : State) : (placeOperation w s).input = s.input := rfl
@[simp] theorem placeOperation_acks (w : Nat) (s : State) : (placeOperation w s).acks = s.acks := rfl
@[simp] theorem placeOperation_output (w : Nat) (s : State) : (placeOperation w s).output = s.output := rfl
@[simp] theorem placeOperation_turns (w : Nat) (s : State) : (placeOperation w s).turns = [] := rfl
@[simp] theorem placeOperation_readback (w : Nat) (s : State) : (placeOperation w s).readback = s.readback := rfl
@[simp] theorem placeOperation_params (w : Nat) (s : State) : (placeOperation w s).params = s.params := rfl

/-! Updates that depend on the state: the fields they never write. -/

@[simp] theorem countSymbol_ctrl (s : State) : (countSymbol s).ctrl = s.ctrl := by
  unfold countSymbol; split <;> rfl
@[simp] theorem countSymbol_wrap (s : State) : (countSymbol s).wrap = s.wrap := by
  unfold countSymbol; split <;> rfl
@[simp] theorem countSymbol_phase (s : State) : (countSymbol s).phase = s.phase := by
  unfold countSymbol; split <;> rfl
@[simp] theorem countSymbol_eos (s : State) : (countSymbol s).eos = s.eos := by
  unfold countSymbol; split <;> rfl
@[simp] theorem countSymbol_err (s : State) : (countSymbol s).err = s.err := by
  unfold countSymbol; split <;> rfl
@[simp] theorem countSymbol_ibuf (s : State) : (countSymbol s).ibuf = s.ibuf := by
  unfold countSymbol; split <;> rfl
@[simp] theorem countSymbol_ilen (s : State) : (countSymbol s).ilen = s.ilen := by
  unfold countSymbol; split <;> rfl
@[simp] theorem countSymbol_obuf (s : State) : (countSymbol s).obuf = s.obuf := by
  unfold countSymbol; split <;> rfl
@[simp] theorem countSymbol_olen (s : State) : (countSymbol s).olen = s.olen := by
  unfold countSymbol; split <;> rfl
@[simp] theorem countSymbol_opos (s : State) : (countSymbol s).opos = s.opos := by
  unfold countSymbol; split <;> rfl
@[simp] theorem countSymbol_carry (s : State) : (countSymbol s).carry = s.carry := by
  unfold countSymbol; split <;> rfl
@[simp] theorem countSymbol_carryCnt (s : State) : (countSymbol s).carryCnt = s.carryCnt := by
  unfold countSymbol; split <;> rfl
@[simp] theorem countSymbol_input (s : State) : (countSymbol s).input = s.input := by
  unfold countSymbol; split <;> rfl
@[simp] theorem countSymbol_acks (s : State) : (countSymbol s).acks = s.acks := by
  unfold countSymbol; split <;> rfl
@[simp] theorem countSymbol_output (s : State) : (countSymbol s).output = s.output := by
  unfold countSymbol; split <;> rfl
@[simp] theorem countSymbol_turns (s : State) : (countSymbol s).turns = s.turns := by
  unfold countSymbol; split <;> rfl
@[simp] theorem countSymbol_readback (s : State) : (countSymbol s).readback = s.readback := by
  unfold countSymbol; split <;> rfl
@[simp] theorem countSymbol_params (s : State) : (countSymbol s).params = s.params := by
  unfold countSymbol; split <;> rfl

@[simp] theorem endDrain_ctrl (s : State) : (endDrain s).ctrl = s.ctrl := by
  unfold endDrain; split <;> rfl
@[simp] theorem endDrain_wrap (s : State) : (endDrain s).wrap = s.wrap := by
  unfold endDrain; split <;> rfl
@[simp] theorem endDrain_eos (s : State) : (endDrain s).eos = s.eos := by
  unfold endDrain; split <;> rfl
@[simp] theorem endDrain_err (s : State) : (endDrain s).err = s.err := by
  unfold endDrain; split <;> rfl
@[simp] theorem endDrain_col (s : State) : (endDrain s).col = s.col := by
  unfold endDrain; split <;> rfl
@[simp] theorem endDrain_ibuf (s : State) : (endDrain s).ibuf = s.ibuf := by
  unfold endDrain; split <;> rfl
@[simp] theorem endDrain_obuf (s : State) : (endDrain s).obuf = s.obuf := by
  unfold endDrain; split <;> rfl
@[simp] theorem endDrain_olen (s : State) : (endDrain s).olen = s.olen := by
  unfold endDrain; split <;> rfl
@[simp] theorem endDrain_opos (s : State) : (endDrain s).opos = s.opos := by
  unfold endDrain; split <;> rfl
@[simp] theorem endDrain_carry (s : State) : (endDrain s).carry = s.carry := by
  unfold endDrain; split <;> rfl
@[simp] theorem endDrain_carryCnt (s : State) : (endDrain s).carryCnt = s.carryCnt := by
  unfold endDrain; split <;> rfl
@[simp] theorem endDrain_input (s : State) : (endDrain s).input = s.input := by
  unfold endDrain; split <;> rfl
@[simp] theorem endDrain_acks (s : State) : (endDrain s).acks = s.acks := by
  unfold endDrain; split <;> rfl
@[simp] theorem endDrain_output (s : State) : (endDrain s).output = s.output := by
  unfold endDrain; split <;> rfl
@[simp] theorem endDrain_turns (s : State) : (endDrain s).turns = s.turns := by
  unfold endDrain; split <;> rfl
@[simp] theorem endDrain_readback (s : State) : (endDrain s).readback = s.readback := by
  unfold endDrain; split <;> rfl
@[simp] theorem endDrain_params (s : State) : (endDrain s).params = s.params := by
  unfold endDrain; split <;> rfl

@[simp] theorem countSymbol_col (s : State) : (countSymbol s).col = if wrapEnabled s then s.col + 1#32 else s.col := by
  unfold countSymbol; split <;> rfl

@[simp] theorem endDrain_phase (s : State) : (endDrain s).phase = if s.eos then .finish else .fill := by
  unfold endDrain; split <;> rfl

@[simp] theorem endDrain_ilen (s : State) : (endDrain s).ilen = if s.eos then s.ilen else 0 := by
  unfold endDrain; split <;> rfl

/-! The host commands: what they leave alone, and when they do nothing. -/

theorem cfgWrite_of_not_idle (r : CfgReg) (v : Nat) (s : State) (h : s.phase ≠ .idle) : cfgWrite r v s = s := by
  unfold cfgWrite; split <;> first | contradiction | rfl

theorem startSession_of_not_idle (s : State) (h : s.phase ≠ .idle) : startSession s = s := by
  unfold startSession; split <;> first | contradiction | rfl

theorem startSession_of_reserved (s : State) (h : s.phase = .idle) (hr : ctrlReserved s.ctrl ≠ 0#3) :
    startSession s = raise .unsupportedScheme s := by
  unfold startSession; rw [h]; exact if_pos hr

theorem startSession_of_legal (s : State) (h : s.phase = .idle) (hr : ctrlReserved s.ctrl = 0#3) :
    startSession s = beginSession s := by
  unfold startSession; rw [h]; exact if_neg (not_not_intro hr)

@[simp] theorem cfgWrite_input (r : CfgReg) (v : Nat) (s : State) : (cfgWrite r v s).input = s.input := by
  unfold cfgWrite; split <;> rfl
@[simp] theorem cfgWrite_acks (r : CfgReg) (v : Nat) (s : State) : (cfgWrite r v s).acks = s.acks := by
  unfold cfgWrite; split <;> rfl
@[simp] theorem cfgWrite_output (r : CfgReg) (v : Nat) (s : State) : (cfgWrite r v s).output = s.output := by
  unfold cfgWrite; split <;> rfl
@[simp] theorem cfgWrite_turns (r : CfgReg) (v : Nat) (s : State) : (cfgWrite r v s).turns = s.turns := by
  unfold cfgWrite; split <;> rfl
@[simp] theorem cfgWrite_readback (r : CfgReg) (v : Nat) (s : State) : (cfgWrite r v s).readback = s.readback := by
  unfold cfgWrite; split <;> rfl
@[simp] theorem cfgWrite_params (r : CfgReg) (v : Nat) (s : State) : (cfgWrite r v s).params = s.params := by
  unfold cfgWrite; split <;> rfl
@[simp] theorem cfgWrite_ibuf (r : CfgReg) (v : Nat) (s : State) : (cfgWrite r v s).ibuf = s.ibuf := by
  unfold cfgWrite; split <;> rfl
@[simp] theorem cfgWrite_obuf (r : CfgReg) (v : Nat) (s : State) : (cfgWrite r v s).obuf = s.obuf := by
  unfold cfgWrite; split <;> rfl
@[simp] theorem cfgWrite_carry (r : CfgReg) (v : Nat) (s : State) : (cfgWrite r v s).carry = s.carry := by
  unfold cfgWrite; split <;> rfl
@[simp] theorem startSession_ctrl (s : State) : (startSession s).ctrl = s.ctrl := by
  unfold startSession; split <;> [skip; rfl]
  split <;> rfl
@[simp] theorem startSession_wrap (s : State) : (startSession s).wrap = s.wrap := by
  unfold startSession; split <;> [skip; rfl]
  split <;> rfl
@[simp] theorem startSession_input (s : State) : (startSession s).input = s.input := by
  unfold startSession; split <;> [skip; rfl]
  split <;> rfl
@[simp] theorem startSession_acks (s : State) : (startSession s).acks = s.acks := by
  unfold startSession; split <;> [skip; rfl]
  split <;> rfl
@[simp] theorem startSession_output (s : State) : (startSession s).output = s.output := by
  unfold startSession; split <;> [skip; rfl]
  split <;> rfl
@[simp] theorem startSession_turns (s : State) : (startSession s).turns = s.turns := by
  unfold startSession; split <;> [skip; rfl]
  split <;> rfl
@[simp] theorem startSession_readback (s : State) : (startSession s).readback = s.readback := by
  unfold startSession; split <;> [skip; rfl]
  split <;> rfl
@[simp] theorem startSession_params (s : State) : (startSession s).params = s.params := by
  unfold startSession; split <;> [skip; rfl]
  split <;> rfl
@[simp] theorem startSession_ibuf (s : State) : (startSession s).ibuf = s.ibuf := by
  unfold startSession; split <;> [skip; rfl]
  split <;> rfl
@[simp] theorem startSession_obuf (s : State) : (startSession s).obuf = s.obuf := by
  unfold startSession; split <;> [skip; rfl]
  split <;> rfl
@[simp] theorem startSession_carry (s : State) : (startSession s).carry = s.carry := by
  unfold startSession; split <;> [skip; rfl]
  split <;> rfl
@[simp] theorem hostCommand_input (c : HostCmd) (s : State) : (hostCommand c s).input = s.input := by
  cases c <;> simp [hostCommand]
@[simp] theorem hostCommand_acks (c : HostCmd) (s : State) : (hostCommand c s).acks = s.acks := by
  cases c <;> simp [hostCommand]
@[simp] theorem hostCommand_output (c : HostCmd) (s : State) : (hostCommand c s).output = s.output := by
  cases c <;> simp [hostCommand]
@[simp] theorem hostCommand_turns (c : HostCmd) (s : State) : (hostCommand c s).turns = s.turns := by
  cases c <;> simp [hostCommand]
@[simp] theorem hostCommand_params (c : HostCmd) (s : State) : (hostCommand c s).params = s.params := by
  cases c <;> simp [hostCommand]

end Sys2Proof.Machine
end

