-- ==== Sys2Proof/Laws/Memory.lean ====
section
/-! SUPPORT. The laws of the buffers: a read after a write, the canonical form kept by every write, and reads of a run of
elements. -/
namespace Sys2Proof.Machine

@[simp] theorem readCell_writeCell_same (m : Memory) (i : Nat) (b : Byte) : readCell (writeCell m i b) i = some b := by
  induction m with
  | nil => simp [writeCell, readCell]
  | cons e rest ih =>
    obtain ⟨k, c⟩ := e
    unfold writeCell
    split
    · simp [readCell]
    · split
      · simp [readCell]
      · rename_i h
        simp [readCell, ih, Ne.symm h]

theorem readCell_writeCell_other (m : Memory) (i j : Nat) (b : Byte) (h : j ≠ i) :
    readCell (writeCell m i b) j = readCell m j := by
  induction m with
  | nil => simp [writeCell, readCell, h.symm]
  | cons e rest ih =>
    obtain ⟨k, c⟩ := e
    unfold writeCell
    split
    · simp [readCell, h.symm]
    · split
      · rename_i hk
        subst hk
        simp [readCell, h.symm]
      · simp [readCell, ih]

theorem readCell_writeCell (m : Memory) (i j : Nat) (b : Byte) :
    readCell (writeCell m i b) j = if j = i then some b else readCell m j := by
  split
  · rename_i h; subst h; simp
  · exact readCell_writeCell_other m i j b ‹_›

theorem writeCell_mem_fst (m : Memory) (i k : Nat) (b : Byte) (h : k ∈ (writeCell m i b).map Prod.fst) :
    k = i ∨ k ∈ m.map Prod.fst := by
  induction m with
  | nil => simpa [writeCell] using h
  | cons e rest ih =>
    obtain ⟨j, c⟩ := e
    unfold writeCell at h
    split at h
    · simpa using h
    · split at h
      · simp only [List.map_cons, List.mem_cons] at h ⊢
        tauto
      · simp only [List.map_cons, List.mem_cons] at h ⊢
        rcases h with h | h
        · exact Or.inr (Or.inl h)
        · rcases ih h with h | h <;> tauto

/-- A write keeps the canonical form. -/
theorem writeCell_wf (m : Memory) (i : Nat) (b : Byte) (h : m.wf) : (writeCell m i b).wf := by
  induction m with
  | nil => simp [writeCell, Memory.wf]
  | cons e rest ih =>
    obtain ⟨k, c⟩ := e
    simp only [Memory.wf, List.map_cons, List.pairwise_cons] at h ih ⊢
    unfold writeCell
    split
    · rename_i hik
      simp only [List.map_cons, List.pairwise_cons, List.mem_cons]
      refine ⟨fun a ha => ?_, h⟩
      rcases ha with ha | ha
      · omega
      · exact hik.trans (h.1 a ha)
    · split
      · rename_i hik
        subst hik
        simpa using h
      · simp only [List.map_cons, List.pairwise_cons]
        refine ⟨fun a ha => ?_, ih h.2⟩
        rcases writeCell_mem_fst rest i a b ha with ha | ha
        · omega
        · exact h.1 a ha

/-- A run of writes keeps the canonical form. -/
theorem writeCells_wf (m : Memory) (i : Nat) (bs : List Byte) (h : m.wf) : (writeCells m i bs).wf := by
  induction bs generalizing m i with
  | nil => exact h
  | cons b bs ih => exact ih _ _ (writeCell_wf m i b h)

/-- The buffers of the reset state are in canonical form. -/
theorem reset_buffers_wf : State.reset.ibuf.wf ∧ State.reset.obuf.wf := by decide

/-- A run of writes leaves the elements outside it alone. -/
theorem readCell_writeCells_outside (m : Memory) (i j : Nat) (bs : List Byte) (h : j < i ∨ i + bs.length ≤ j) :
    readCell (writeCells m i bs) j = readCell m j := by
  induction bs generalizing m i with
  | nil => rfl
  | cons b bs ih =>
    simp only [List.length_cons] at h
    unfold writeCells
    rw [ih _ _ (by omega), readCell_writeCell_other _ _ _ _ (by omega)]

/-- A run of writes is read back element by element. -/
theorem readCell_writeCells_inside (m : Memory) (i j : Nat) (bs : List Byte) (h : j < bs.length) :
    readCell (writeCells m i bs) (i + j) = bs[j]? := by
  induction bs generalizing m i j with
  | nil => simp at h
  | cons b bs ih =>
    unfold writeCells
    cases j with
    | zero => rw [readCell_writeCells_outside _ _ _ _ (by omega)]; simp
    | succ j =>
      have := ih (writeCell m i b) (i + 1) j (by simpa using h)
      rw [show i + (j + 1) = i + 1 + j by omega, this]
      simp

theorem readCells_length (m : Memory) (i n : Nat) (bs : List Byte) (h : readCells m i n = some bs) : bs.length = n := by
  induction n generalizing i bs with
  | zero => simp [readCells] at h; simp [← h]
  | succ n ih =>
    unfold readCells at h
    split at h
    · rename_i b rest _ hr
      cases h
      simp [ih _ _ hr]
    · contradiction

/-- Elements `i .. i+n-1` read as `bs` exactly when each of them reads as the byte in its place. -/
theorem readCells_eq_some (m : Memory) (i n : Nat) (bs : List Byte) :
    readCells m i n = some bs ↔ bs.length = n ∧ ∀ j, j < n → readCell m (i + j) = bs[j]? := by
  induction n generalizing i bs with
  | zero =>
    simp only [readCells, Option.some.injEq, Nat.not_lt_zero, false_implies, implies_true, and_true]
    constructor
    · rintro rfl; rfl
    · intro h; exact (List.length_eq_zero_iff.mp h).symm
  | succ n ih =>
    unfold readCells
    constructor
    · intro h
      split at h
      · rename_i b rest hb hr
        cases h
        obtain ⟨hl, he⟩ := (ih _ _).mp hr
        refine ⟨by simp [hl], fun j hj => ?_⟩
        cases j with
        | zero => simpa using hb
        | succ j => simpa [Nat.add_assoc, Nat.add_comm 1] using he j (by omega)
      · contradiction
    · rintro ⟨hl, he⟩
      obtain ⟨b, rest, rfl⟩ := List.exists_cons_of_length_eq_add_one hl
      have h0 := he 0 (by omega)
      have hr := (ih (i + 1) rest).mpr ⟨by simpa using hl, fun j hj => by
        simpa [Nat.add_assoc, Nat.add_comm 1] using he (j + 1) (by omega)⟩
      simp at h0
      simp [h0, hr]

/-- Written elements can be read as a run. -/
theorem readCells_of_written (m : Memory) (i n : Nat) (h : ∀ j, i ≤ j → j < i + n → (readCell m j).isSome) :
    ∃ bs, readCells m i n = some bs := by
  induction n generalizing i with
  | zero => exact ⟨[], rfl⟩
  | succ n ih =>
    obtain ⟨b, hb⟩ := Option.isSome_iff_exists.mp (h i (by omega) (by omega))
    obtain ⟨bs, hbs⟩ := ih (i + 1) fun j h1 h2 => h j (by omega) (by omega)
    exact ⟨b :: bs, by simp [readCells, hb, hbs]⟩

/-- A run of writes from index 0 is read back whole. -/
theorem readCells_writeCells (m : Memory) (bs : List Byte) : readCells (writeCells m 0 bs) 0 bs.length = some bs :=
  (readCells_eq_some _ _ _ _).mpr ⟨rfl, fun j hj => readCell_writeCells_inside m 0 j bs hj⟩

end Sys2Proof.Machine
end

