-- ==== Sys2Proof/Laws/Schemes.lean ====
section
/-! SUPPORT. The numbers of the descriptors per scheme, for simp, and when each character class holds. -/
namespace Sys2Proof.Machine

@[simp] theorem blockBytes_base64 : blockBytes .base64 = 3 := rfl
@[simp] theorem blockBytes_base64url : blockBytes .base64url = 3 := rfl
@[simp] theorem blockBytes_base32 : blockBytes .base32 = 5 := rfl
@[simp] theorem blockBytes_base32hex : blockBytes .base32hex = 5 := rfl
@[simp] theorem blockBytes_base16 : blockBytes .base16 = 1 := rfl
@[simp] theorem blockBytes_base2msbf : blockBytes .base2msbf = 1 := rfl
@[simp] theorem blockBytes_base2lsbf : blockBytes .base2lsbf = 1 := rfl
@[simp] theorem blockBytes_z85 : blockBytes .z85 = 4 := rfl
@[simp] theorem groupSymbols_base64 : groupSymbols .base64 = 4 := rfl
@[simp] theorem groupSymbols_base64url : groupSymbols .base64url = 4 := rfl
@[simp] theorem groupSymbols_base32 : groupSymbols .base32 = 8 := rfl
@[simp] theorem groupSymbols_base32hex : groupSymbols .base32hex = 8 := rfl
@[simp] theorem groupSymbols_base16 : groupSymbols .base16 = 2 := rfl
@[simp] theorem groupSymbols_base2msbf : groupSymbols .base2msbf = 8 := rfl
@[simp] theorem groupSymbols_base2lsbf : groupSymbols .base2lsbf = 8 := rfl
@[simp] theorem groupSymbols_z85 : groupSymbols .z85 = 5 := rfl
@[simp] theorem symbolBits_base64 : symbolBits .base64 = 6 := rfl
@[simp] theorem symbolBits_base64url : symbolBits .base64url = 6 := rfl
@[simp] theorem symbolBits_base32 : symbolBits .base32 = 5 := rfl
@[simp] theorem symbolBits_base32hex : symbolBits .base32hex = 5 := rfl
@[simp] theorem symbolBits_base16 : symbolBits .base16 = 4 := rfl
@[simp] theorem symbolBits_base2msbf : symbolBits .base2msbf = 1 := rfl
@[simp] theorem symbolBits_base2lsbf : symbolBits .base2lsbf = 1 := rfl

theorem blockBytes_pos (s : Scheme) : 0 < blockBytes s := by cases s <;> decide

theorem groupSymbols_bounds (s : Scheme) : 2 ≤ groupSymbols s ∧ groupSymbols s ≤ 8 := by cases s <;> decide

/-- No unpacker makes more bytes than its group has symbols. -/
theorem blockBytes_lt_groupSymbols (s : Scheme) : blockBytes s < groupSymbols s := by cases s <;> decide

/-- `S * K = 8 * B` in every radix row (30_encoding.md R78). -/
theorem groupSymbols_mul_symbolBits (s : Scheme) (h : s ≠ .z85) : groupSymbols s * symbolBits s = 8 * blockBytes s := by
  cases s <;> first | decide | contradiction

/-- A byte of class SYM(v) is neither a newline nor padding, and looks up to `v`. -/
theorem classify_eq_sym {lower : Bool} {s : Scheme} {c : Byte} {v : Nat} (h : classify lower s c = .sym v) :
    lookup lower s c = some v := by
  unfold classify at h
  split at h
  · contradiction
  · split at h
    · contradiction
    · split at h
      · rename_i hv; cases h; exact hv
      · contradiction

/-- A byte that is skipped adds nothing to the scan. -/
theorem scan_skip {lower : Bool} {s : Scheme} {g : Bool} {grp : List Nat} {c : Byte} {cs : List Byte}
    (h : classify lower s c = .nl ∨ classify lower s c = .padch ∨ (classify lower s c = .inv ∧ g = true)) :
    scan lower s g grp (c :: cs) = scan lower s g grp cs := by
  rw [scan]
  rcases h with h | h | ⟨h, hg⟩
  · rw [h]
  · rw [h]
  · rw [h, hg]; rfl

theorem scan_invalid {lower : Bool} {s : Scheme} {grp : List Nat} {c : Byte} {cs : List Byte}
    (h : classify lower s c = .inv) : scan lower s false grp (c :: cs) = .error .invalidInputSymbol := by
  rw [scan, h]; rfl

theorem scan_sym {lower : Bool} {s : Scheme} {g : Bool} {grp : List Nat} {c : Byte} {cs : List Byte} {v : Nat}
    (h : classify lower s c = .sym v) (hl : grp.length + 1 ≠ groupSymbols s) :
    scan lower s g grp (c :: cs) = scan lower s g (grp ++ [v]) cs := by
  rw [scan, h]; exact if_neg hl

theorem scan_group {lower : Bool} {s : Scheme} {g : Bool} {grp : List Nat} {c : Byte} {cs : List Byte} {v : Nat}
    (h : classify lower s c = .sym v) (hl : grp.length + 1 = groupSymbols s) :
    scan lower s g grp (c :: cs) =
      (scan lower s g [] cs).map fun r => (r.1, unpackGroup s (grp ++ [v]) ++ r.2) := by
  rw [scan, h]
  simp only [if_pos hl]
  cases scan lower s g [] cs <;> rfl

/-- The only error of a scan is InvalidInputSymbol, and only in strict mode (42_radix_decode.md R133). -/
theorem scan_error {lower : Bool} {s : Scheme} {g : Bool} {grp : List Nat} {text : List Byte} {k : ErrorKind}
    (h : scan lower s g grp text = .error k) : k = .invalidInputSymbol ∧ g = false := by
  induction text generalizing grp with
  | nil => simp [scan] at h
  | cons c cs ih =>
    cases hc : classify lower s c with
    | nl => rw [scan_skip (Or.inl hc)] at h; exact ih h
    | padch => rw [scan_skip (Or.inr (Or.inl hc))] at h; exact ih h
    | inv =>
      cases g with
      | true => rw [scan_skip (Or.inr (Or.inr ⟨hc, rfl⟩))] at h; exact ih h
      | false => rw [scan_invalid hc] at h; cases h; exact ⟨rfl, rfl⟩
    | sym v =>
      by_cases hl : grp.length + 1 = groupSymbols s
      · rw [scan_group hc hl] at h
        cases hs : scan lower s g [] cs with
        | error k' => rw [hs] at h; cases h; exact ih hs
        | ok r => rw [hs] at h; cases h
      · rw [scan_sym hc hl] at h; exact ih h

/-- The group a scan leaves is shorter than a full group (42_radix_decode.md R130). -/
theorem scan_left_length {lower : Bool} {s : Scheme} {g : Bool} {grp : List Nat} {text : List Byte}
    {left : List Nat} {out : List Byte} (hg : grp.length < groupSymbols s)
    (h : scan lower s g grp text = .ok (left, out)) : left.length < groupSymbols s := by
  induction text generalizing grp left out with
  | nil => simp [scan] at h; obtain ⟨rfl, -⟩ := h; exact hg
  | cons c cs ih =>
    cases hc : classify lower s c with
    | nl => rw [scan_skip (Or.inl hc)] at h; exact ih hg h
    | padch => rw [scan_skip (Or.inr (Or.inl hc))] at h; exact ih hg h
    | inv =>
      cases g with
      | true => rw [scan_skip (Or.inr (Or.inr ⟨hc, rfl⟩))] at h; exact ih hg h
      | false => rw [scan_invalid hc] at h; contradiction
    | sym v =>
      by_cases hl : grp.length + 1 = groupSymbols s
      · rw [scan_group hc hl] at h
        cases hs : scan lower s g [] cs with
        | error k' => rw [hs] at h; cases h
        | ok r =>
          rw [hs] at h
          obtain ⟨l, o⟩ := r
          cases h
          exact ih (by have := groupSymbols_bounds s; simp; omega) hs
      · rw [scan_sym hc hl] at h
        exact ih (by simp; omega) h

/-- The number of bytes an unpacked group has (42_radix_decode.md R134, 43_z85_decode.md R158). -/
@[simp] theorem unpackGroup_length (s : Scheme) (grp : List Nat) : (unpackGroup s grp).length = blockBytes s := by
  cases s <;> simp [unpackGroup, descriptor, unpack5, blockBytes]

/-- A scan makes fewer bytes than it has symbols to read. -/
theorem scan_out_length {lower : Bool} {s : Scheme} {g : Bool} {grp : List Nat} {text : List Byte}
    {left : List Nat} {out : List Byte} (h : scan lower s g grp text = .ok (left, out)) :
    out.length + left.length ≤ grp.length + text.length := by
  induction text generalizing grp left out with
  | nil => simp [scan] at h; obtain ⟨rfl, rfl⟩ := h; simp
  | cons c cs ih =>
    simp only [List.length_cons]
    cases hc : classify lower s c with
    | nl => rw [scan_skip (Or.inl hc)] at h; have := ih h; omega
    | padch => rw [scan_skip (Or.inr (Or.inl hc))] at h; have := ih h; omega
    | inv =>
      cases g with
      | true => rw [scan_skip (Or.inr (Or.inr ⟨hc, rfl⟩))] at h; have := ih h; omega
      | false => rw [scan_invalid hc] at h; contradiction
    | sym v =>
      by_cases hl : grp.length + 1 = groupSymbols s
      · rw [scan_group hc hl] at h
        cases hs : scan lower s g [] cs with
        | error k' => rw [hs] at h; cases h
        | ok r =>
          rw [hs] at h
          obtain ⟨l, o⟩ := r
          cases h
          have := ih hs
          have := blockBytes_lt_groupSymbols s
          simp at *
          omega
      · rw [scan_sym hc hl] at h
        have := ih h
        simp at this
        omega

/-- The end rule makes no more bytes than the group has symbols (42_radix_decode.md R137). -/
theorem finishGroup_length {s : Scheme} {grp : List Nat} {tail : List Byte} (h : finishGroup s grp = .ok tail) :
    tail.length ≤ grp.length := by
  unfold finishGroup at h
  split at h
  · cases h; simp
  · cases s <;> cases h <;> simp [unpackPartial] <;> omega

/-- The only error of the end rule is MisalignedLength (42_radix_decode.md R135, 43_z85_decode.md R157). -/
theorem finishGroup_error {s : Scheme} {grp : List Nat} {k : ErrorKind} (h : finishGroup s grp = .error k) :
    k = .misalignedLength ∧ grp ≠ [] ∧ (s = .base2msbf ∨ s = .base2lsbf ∨ s = .z85) := by
  unfold finishGroup at h
  split at h
  · cases h
  · cases s <;> cases h <;> simp_all

end Sys2Proof.Machine
end

