-- ==== Sys2Proof/Laws/Ops.lean ====
section
/-! SUPPORT. One inversion lemma per shared operation: if it answers a next state, then one of these cases holds. Then the
same for `exec` and `step`. Later proofs cite these and unfold no operation. -/
namespace Sys2Proof.Machine

/-- What START can do (44_stream_engine.md R172). -/
theorem startSession_cases (s : State) :
    (s.phase ≠ .idle ∧ startSession s = s) ∨
    (s.phase = .idle ∧ ctrlReserved s.ctrl ≠ 0#3 ∧ startSession s = raise .unsupportedScheme s) ∨
    (s.phase = .idle ∧ ctrlReserved s.ctrl = 0#3 ∧ startSession s = beginSession s) := by
  by_cases hp : s.phase = .idle
  · by_cases hc : ctrlReserved s.ctrl = 0#3
    · exact .inr (.inr ⟨hp, hc, startSession_of_legal _ hp hc⟩)
    · exact .inr (.inl ⟨hp, hc, startSession_of_reserved _ hp hc⟩)
  · exact .inl ⟨hp, startSession_of_not_idle _ hp⟩

/-- What a CfgWrite can do (10_state.md R29). -/
theorem cfgWrite_cases (r : CfgReg) (v : Nat) (s : State) :
    (s.phase ≠ .idle ∧ cfgWrite r v s = s) ∨
    (s.phase = .idle ∧ r = .ctrl ∧ cfgWrite r v s = { s with ctrl := BitVec.ofNat 8 v }) ∨
    (s.phase = .idle ∧ r = .wrap ∧ cfgWrite r v s = { s with wrap := BitVec.ofNat 32 v }) := by
  by_cases hp : s.phase = .idle
  · cases r
    · exact .inr (.inl ⟨hp, rfl, by simp [cfgWrite, hp]⟩)
    · exact .inr (.inr ⟨hp, rfl, by simp [cfgWrite, hp]⟩)
  · exact .inl ⟨hp, cfgWrite_of_not_idle _ _ _ hp⟩

/-- The only error of a packer is the length error of Z85 (41_z85_encode.md R120). -/
theorem encodeSymbols_error {sc : Scheme} {data : List Byte} {k : ErrorKind} (h : encodeSymbols sc data = .error k) :
    k = .misalignedLength ∧ sc = .z85 ∧ data.length % 4 ≠ 0 := by
  cases sc <;> simp only [encodeSymbols] at h <;> try contradiction
  unfold encZ85 at h
  split at h
  · cases h; exact ⟨rfl, rfl, ‹_›⟩
  · cases h

theorem outWrite_cases {b : Byte} {f : State → State} {s t : State} (h : outWrite b f s = .next t) :
    (∃ r, s.acks = .ok :: r ∧ t = f (acceptByte b r s)) ∨
    (∃ r, s.acks = .err :: r ∧ t = raise .ioWriteError (refuseByte r s)) := by
  unfold outWrite at h
  split at h
  · cases h
  · cases h; exact Or.inl ⟨_, ‹_›, rfl⟩
  · cases h; exact Or.inr ⟨_, ‹_›, rfl⟩

theorem fillStep_cases {cap : Nat} {s t : State} (h : fillStep cap s = .next t) :
    (s.ilen < cap ∧ s.eos = false ∧
      ((∃ b r, s.input = .byte b :: r ∧ t = pushByte b (consumeItem r s)) ∨
       (∃ r, s.input = .eos :: r ∧ t = setEos (consumeItem r s)) ∨
       (∃ r, s.input = .err :: r ∧ t = raise .ioReadError (consumeItem r s)))) ∨
    ((s.ilen = cap ∨ s.eos = true) ∧ t = enterPhase .process s) := by
  unfold fillStep at h
  split at h
  · rename_i hc
    refine Or.inl ⟨hc.1, hc.2, ?_⟩
    split at h
    · cases h
    · cases h; exact Or.inl ⟨_, _, ‹_›, rfl⟩
    · cases h; exact Or.inr (Or.inl ⟨_, ‹_›, rfl⟩)
    · cases h; exact Or.inr (Or.inr ⟨_, ‹_›, rfl⟩)
  · split at h
    · cases h; exact Or.inr ⟨‹_›, rfl⟩
    · cases h

theorem commitBounded_cases {out : List Byte} {s t : State} (h : commitBounded out s = .next t) :
    out.length ≤ obufCap s.params ∧ t = commitOutput out s := by
  unfold commitBounded at h
  split at h
  · cases h; exact ⟨‹_›, rfl⟩
  · cases h

theorem chunkOf_ok {cap : Nat} {s : State} {data : List Byte} (h : chunkOf cap s = .ok data) :
    s.ilen ≤ cap ∧ readCells s.ibuf 0 s.ilen = some data := by
  unfold chunkOf at h
  split at h
  · split at h
    · cases h; exact ⟨‹_›, ‹_›⟩
    · cases h
  · cases h

theorem chunkOf_eq {cap : Nat} {s : State} {data : List Byte} (hl : s.ilen ≤ cap)
    (hd : readCells s.ibuf 0 s.ilen = some data) : chunkOf cap s = .ok data := by
  simp [chunkOf, hl, hd]

theorem encodeProcess_cases {pack : List Byte → Except ErrorKind (List Byte)} {s t : State}
    (h : encodeProcess pack s = .next t) :
    ∃ data, s.ilen ≤ inCap s.params .encode ∧ readCells s.ibuf 0 s.ilen = some data ∧
      ((∃ k, pack data = .error k ∧ t = raise k s) ∨
       (∃ syms, pack data = .ok syms ∧ syms.length ≤ obufCap s.params ∧ t = commitOutput syms s)) := by
  unfold encodeProcess at h
  split at h
  · cases h
  · rename_i data hd
    obtain ⟨hl, hr⟩ := chunkOf_ok hd
    refine ⟨data, hl, hr, ?_⟩
    split at h
    · cases h; exact Or.inl ⟨_, ‹_›, rfl⟩
    · obtain ⟨hb, rfl⟩ := commitBounded_cases h
      exact Or.inr ⟨_, ‹_›, hb, rfl⟩

theorem decodeProcess_cases {sc : Scheme} {g : Bool} {s t : State} (h : decodeProcess sc g s = .next t) :
    ∃ data, s.ilen ≤ inCap s.params .decode ∧ readCells s.ibuf 0 s.ilen = some data ∧
      ((∃ k, scan s.params.b16DecodeLowercase sc g (carriedGroup s) data = .error k ∧ t = raise k s) ∨
       (∃ grp out, scan s.params.b16DecodeLowercase sc g (carriedGroup s) data = .ok (grp, out) ∧
         ((s.eos = true ∧
            ((∃ k, finishGroup sc grp = .error k ∧ t = raise k s) ∨
             (∃ tail, finishGroup sc grp = .ok tail ∧ (out ++ tail).length ≤ obufCap s.params ∧
               t = commitOutput (out ++ tail) (clearCarry s)))) ∨
          (s.eos = false ∧ ∃ hg : grp.length < 8, out.length ≤ obufCap s.params ∧
            t = commitOutput out (keepGroup grp hg s))))) := by
  unfold decodeProcess at h
  split at h
  · cases h
  · rename_i data hd
    obtain ⟨hl, hr⟩ := chunkOf_ok hd
    refine ⟨data, hl, hr, ?_⟩
    split at h
    · cases h; exact Or.inl ⟨_, ‹_›, rfl⟩
    · rename_i grp out hs
      refine Or.inr ⟨grp, out, hs, ?_⟩
      split at h
      · rename_i he
        refine Or.inl ⟨he, ?_⟩
        split at h
        · cases h; exact Or.inl ⟨_, ‹_›, rfl⟩
        · obtain ⟨hb, rfl⟩ := commitBounded_cases h
          exact Or.inr ⟨_, ‹_›, hb, rfl⟩
      · rename_i he
        refine Or.inr ⟨by simpa [finalChunk] using he, ?_⟩
        split at h
        · rename_i hg
          obtain ⟨hb, rfl⟩ := commitBounded_cases h
          exact ⟨hg, hb, rfl⟩
        · cases h

theorem writeNext_cases {f : State → State} {s t : State} (h : writeNext f s = .next t) :
    ∃ b, readCell s.obuf s.opos = some b ∧
      ((∃ r, s.acks = .ok :: r ∧ t = f (acceptByte b r s)) ∨
       (∃ r, s.acks = .err :: r ∧ t = raise .ioWriteError (refuseByte r s))) := by
  unfold writeNext at h
  split at h
  · exact ⟨_, ‹_›, outWrite_cases h⟩
  · cases h

theorem drainByteEncode_cases {s t : State} (h : drainByteEncode s = .next t) :
    (∃ r, s.acks = .err :: r ∧ t = raise .ioWriteError (refuseByte r s)) ∨
    (lineFull s = true ∧ ∃ r, s.acks = .ok :: r ∧ t = clearCol (acceptByte newlineByte r s)) ∨
    (lineFull s = false ∧ ∃ b r, readCell s.obuf s.opos = some b ∧ s.acks = .ok :: r ∧
      t = countSymbol (advanceOpos (acceptByte b r s))) := by
  unfold drainByteEncode at h
  split at h
  · rename_i hf
    rcases outWrite_cases h with ⟨r, hr, rfl⟩ | ⟨r, hr, rfl⟩
    · exact Or.inr (Or.inl ⟨hf, r, hr, rfl⟩)
    · exact Or.inl ⟨r, hr, rfl⟩
  · rename_i hf
    obtain ⟨b, hb, ⟨r, hr, rfl⟩ | ⟨r, hr, rfl⟩⟩ := writeNext_cases h
    · exact Or.inr (Or.inr ⟨by simpa using hf, b, r, hb, hr, rfl⟩)
    · exact Or.inl ⟨r, hr, rfl⟩

theorem drainByteDecode_cases {s t : State} (h : drainByteDecode s = .next t) :
    (∃ r, s.acks = .err :: r ∧ t = raise .ioWriteError (refuseByte r s)) ∨
    (∃ b r, readCell s.obuf s.opos = some b ∧ s.acks = .ok :: r ∧ t = advanceOpos (acceptByte b r s)) := by
  obtain ⟨b, hb, ⟨r, hr, rfl⟩ | ⟨r, hr, rfl⟩⟩ := writeNext_cases h
  · exact Or.inr ⟨b, r, hb, hr, rfl⟩
  · exact Or.inl ⟨r, hr, rfl⟩

theorem drainStep_cases {f : State → Result} {s t : State} (h : drainStep f s = .next t) :
    (s.opos < s.olen ∧ f s = .next t) ∨ (s.opos = s.olen ∧ t = endDrain s) := by
  unfold drainStep at h
  split at h
  · exact Or.inl ⟨‹_›, h⟩
  · split at h
    · cases h; exact Or.inr ⟨‹_›, rfl⟩
    · cases h

theorem finishEncode_cases {s t : State} (h : finishEncode s = .next t) :
    (wrapEnabled s = true ∧ s.col ≠ 0#32 ∧
      ((∃ r, s.acks = .ok :: r ∧ t = enterPhase .done (clearCol (acceptByte newlineByte r s))) ∨
       (∃ r, s.acks = .err :: r ∧ t = raise .ioWriteError (refuseByte r s)))) ∨
    ((wrapEnabled s = false ∨ s.col = 0#32) ∧ t = enterPhase .done s) := by
  unfold finishEncode at h
  split at h
  · rename_i hc
    simp at hc
    exact Or.inl ⟨hc.1, hc.2, outWrite_cases h⟩
  · rename_i hc
    cases h
    refine Or.inr ⟨?_, rfl⟩
    simp at hc
    cases hw : wrapEnabled s
    · exact Or.inl rfl
    · exact Or.inr (hc hw)

/-- What the engine step of an encode operation can do. -/
theorem encodeStep_cases {pack : List Byte → Except ErrorKind (List Byte)} {s t : State}
    (h : encodeStep pack s = .next t) :
    (s.phase = .fill ∧ fillStep (inCap s.params .encode) s = .next t) ∨
    (s.phase = .process ∧ encodeProcess pack s = .next t) ∨
    (s.phase = .drain ∧ drainStep drainByteEncode s = .next t) ∨
    (s.phase = .finish ∧ finishEncode s = .next t) := by
  unfold encodeStep at h
  split at h <;> first | contradiction | simp_all

/-- What the engine step of a decode operation can do. -/
theorem decodeStep_cases {sc : Scheme} {g : Bool} {s t : State} (h : decodeStep sc g s = .next t) :
    (s.phase = .fill ∧ fillStep (inCap s.params .decode) s = .next t) ∨
    (s.phase = .process ∧ decodeProcess sc g s = .next t) ∨
    (s.phase = .drain ∧ drainStep drainByteDecode s = .next t) ∨
    (s.phase = .finish ∧ t = enterPhase .done s) := by
  unfold decodeStep at h
  split at h <;> first | contradiction | simp_all [finishDecode]

/-- Every encode operation is the encode step of its scheme. -/
theorem exec_of_encode {i : Instr} (h : modeOf i = .encode) (s : State) :
    exec i s = encodeStep (encodeSymbols (schemeOf i)) s := by
  cases i <;> first | rfl | contradiction

/-- Every decode operation is the decode step of its scheme. -/
theorem exec_of_decode {i : Instr} (h : modeOf i = .decode) (s : State) :
    exec i s = decodeStep (schemeOf i) (ignoreGarbageOf i) s := by
  cases i <;> first | rfl | contradiction

/-- What the engine step of any operation can do. -/
theorem exec_cases {i : Instr} {s t : State} (h : exec i s = .next t) :
    (s.phase = .fill ∧ s.ilen < inCap s.params (modeOf i) ∧ s.eos = false ∧
      ((∃ b r, s.input = .byte b :: r ∧ t = pushByte b (consumeItem r s)) ∨
       (∃ r, s.input = .eos :: r ∧ t = setEos (consumeItem r s)) ∨
       (∃ r, s.input = .err :: r ∧ t = raise .ioReadError (consumeItem r s)))) ∨
    (s.phase = .fill ∧ (s.ilen = inCap s.params (modeOf i) ∨ s.eos = true) ∧ t = enterPhase .process s) ∨
    (s.phase = .process ∧ modeOf i = .encode ∧ encodeProcess (encodeSymbols (schemeOf i)) s = .next t) ∨
    (s.phase = .process ∧ modeOf i = .decode ∧ decodeProcess (schemeOf i) (ignoreGarbageOf i) s = .next t) ∨
    (s.phase = .drain ∧ s.opos < s.olen ∧
      ((∃ r, s.acks = .err :: r ∧ t = raise .ioWriteError (refuseByte r s)) ∨
       (modeOf i = .encode ∧ lineFull s = true ∧
          ∃ r, s.acks = .ok :: r ∧ t = clearCol (acceptByte newlineByte r s)) ∨
       (modeOf i = .encode ∧ lineFull s = false ∧ ∃ b r, readCell s.obuf s.opos = some b ∧ s.acks = .ok :: r ∧
          t = countSymbol (advanceOpos (acceptByte b r s))) ∨
       (modeOf i = .decode ∧ ∃ b r, readCell s.obuf s.opos = some b ∧ s.acks = .ok :: r ∧
          t = advanceOpos (acceptByte b r s)))) ∨
    (s.phase = .drain ∧ s.opos = s.olen ∧ t = endDrain s) ∨
    (s.phase = .finish ∧ modeOf i = .encode ∧ wrapEnabled s = true ∧ s.col ≠ 0#32 ∧
      ((∃ r, s.acks = .ok :: r ∧ t = enterPhase .done (clearCol (acceptByte newlineByte r s))) ∨
       (∃ r, s.acks = .err :: r ∧ t = raise .ioWriteError (refuseByte r s)))) ∨
    (s.phase = .finish ∧ (modeOf i = .decode ∨ wrapEnabled s = false ∨ s.col = 0#32) ∧ t = enterPhase .done s) := by
  cases hm : modeOf i with
  | encode =>
    rw [exec_of_encode hm] at h
    rcases encodeStep_cases h with ⟨hp, h⟩ | ⟨hp, h⟩ | ⟨hp, h⟩ | ⟨hp, h⟩
    · rcases fillStep_cases h with ⟨h1, h2, h3⟩ | ⟨h1, h2⟩
      · exact .inl ⟨hp, h1, h2, h3⟩
      · exact .inr (.inl ⟨hp, h1, h2⟩)
    · exact .inr (.inr (.inl ⟨hp, rfl, h⟩))
    · rcases drainStep_cases h with ⟨h1, h2⟩ | ⟨h1, h2⟩
      · refine .inr (.inr (.inr (.inr (.inl ⟨hp, h1, ?_⟩))))
        rcases drainByteEncode_cases h2 with h | h | h
        · exact .inl h
        · exact .inr (.inl ⟨rfl, h⟩)
        · exact .inr (.inr (.inl ⟨rfl, h⟩))
      · exact .inr (.inr (.inr (.inr (.inr (.inl ⟨hp, h1, h2⟩)))))
    · rcases finishEncode_cases h with ⟨h1, h2, h3⟩ | ⟨h1, h2⟩
      · exact .inr (.inr (.inr (.inr (.inr (.inr (.inl ⟨hp, rfl, h1, h2, h3⟩))))))
      · exact .inr (.inr (.inr (.inr (.inr (.inr (.inr ⟨hp, .inr h1, h2⟩))))))
  | decode =>
    rw [exec_of_decode hm] at h
    rcases decodeStep_cases h with ⟨hp, h⟩ | ⟨hp, h⟩ | ⟨hp, h⟩ | ⟨hp, h⟩
    · rcases fillStep_cases h with ⟨h1, h2, h3⟩ | ⟨h1, h2⟩
      · exact .inl ⟨hp, h1, h2, h3⟩
      · exact .inr (.inl ⟨hp, h1, h2⟩)
    · exact .inr (.inr (.inr (.inl ⟨hp, rfl, h⟩)))
    · rcases drainStep_cases h with ⟨h1, h2⟩ | ⟨h1, h2⟩
      · refine .inr (.inr (.inr (.inr (.inl ⟨hp, h1, ?_⟩))))
        rcases drainByteDecode_cases h2 with h | h
        · exact .inl h
        · exact .inr (.inr (.inr ⟨rfl, h⟩))
      · exact .inr (.inr (.inr (.inr (.inr (.inl ⟨hp, h1, h2⟩)))))
    · exact .inr (.inr (.inr (.inr (.inr (.inr (.inr ⟨hp, .inl rfl, h⟩))))))

/-- The operation `decode` finds is the one the fields of CTRL name (10_state.md R27). -/
theorem decode_fields : ∀ c : Byte, ∀ i, decode c = .ok i →
    ctrlReserved c = 0#3 ∧ modeOf i = ctrlMode c ∧ schemeOf i = ctrlSchemeOf c ∧
      ignoreGarbageOf i = ctrlIgnoreGarbage c := by
  have h : ∀ c : Byte, (match decode c with
      | .ok i => decide (ctrlReserved c = 0#3 ∧ modeOf i = ctrlMode c ∧ schemeOf i = ctrlSchemeOf c ∧
          ignoreGarbageOf i = ctrlIgnoreGarbage c)
      | .error _ => true) = true := by decide
  intro c i hi
  have hc := h c
  rw [hi] at hc
  simpa using hc

/-- What a step that answers a next state did: a host command that was due, or the engine step of the operation CTRL
selects. -/
theorem step_cases {s t : State} (h : step s = .next t) :
    s.params.wf = true ∧
    ((∃ c r, s.turns = .cmd c :: r ∧ t = hostCommand c (dropTurn s)) ∨
     (∃ i u, (u = s ∧ s.turns = [] ∨ u = dropTurn s ∧ ∃ r, s.turns = .engine :: r) ∧ sessionRunning u = true ∧
       decode u.ctrl = .ok i ∧ exec i u = .next t)) := by
  have turn : ∀ u r, engineTurn u = r → (match r with | .answer q => q | .run i v => exec i v) = .next t →
      sessionRunning u = true ∧ ∃ i, decode u.ctrl = .ok i ∧ exec i u = .next t := by
    intro u r hr hn
    unfold engineTurn at hr
    unfold sessionRunning
    split at hr <;> first | (subst hr; contradiction) | skip
    all_goals
      split at hr
      · subst hr; simp_all
      · subst hr; contradiction
  unfold step fetch at h
  by_cases hw : s.params.wf = true
  · refine ⟨hw, ?_⟩
    rw [if_pos hw] at h
    cases ht : s.turns with
    | nil =>
      rw [ht] at h
      obtain ⟨h1, i, h2, h3⟩ := turn _ _ rfl h
      exact Or.inr ⟨i, s, Or.inl ⟨rfl, rfl⟩, h1, h2, h3⟩
    | cons x r =>
      rw [ht] at h
      cases x with
      | cmd c => cases h; exact Or.inl ⟨c, r, rfl, rfl⟩
      | engine =>
        obtain ⟨h1, i, h2, h3⟩ := turn _ _ rfl h
        exact Or.inr ⟨i, dropTurn s, Or.inr ⟨rfl, r, rfl⟩, h1, h2, h3⟩
  · rw [if_neg hw] at h
    contradiction

end Sys2Proof.Machine
end

