-- ==== Sys2Proof/Laws/PerInstr.lean ====
section
/-! SUPPORT. The per-instruction family CtrlWord: the CTRL word an operation encodes to has the fields of 30_encoding.md
R71 and R75, and is legal (R76). -/
namespace Sys2Proof.Laws.CtrlWord
open Sys2Proof.Machine

/-- The word's fields are the operation's scheme, mode and operand, its reserved bits are 0, and it is well-formed. -/
def Statement (i : Instr) : Prop :=
  ctrlScheme (Sys2Proof.encode i) = (descriptor (schemeOf i)).code ∧ ctrlMode (Sys2Proof.encode i) = modeOf i ∧
    ctrlIgnoreGarbage (Sys2Proof.encode i) = ignoreGarbageOf i ∧ ctrlReserved (Sys2Proof.encode i) = 0#3 ∧
    ctrlWordWf (Sys2Proof.encode i) = true ∧ i.wf = true

theorem encB64 (g : Bool) : Statement (.encB64 g) := by cases g <;> (unfold Statement; decide)
theorem encB64Url (g : Bool) : Statement (.encB64Url g) := by cases g <;> (unfold Statement; decide)
theorem encB32 (g : Bool) : Statement (.encB32 g) := by cases g <;> (unfold Statement; decide)
theorem encB32Hex (g : Bool) : Statement (.encB32Hex g) := by cases g <;> (unfold Statement; decide)
theorem encB16 (g : Bool) : Statement (.encB16 g) := by cases g <;> (unfold Statement; decide)
theorem encB2Msbf (g : Bool) : Statement (.encB2Msbf g) := by cases g <;> (unfold Statement; decide)
theorem encB2Lsbf (g : Bool) : Statement (.encB2Lsbf g) := by cases g <;> (unfold Statement; decide)
theorem encZ85 (g : Bool) : Statement (.encZ85 g) := by cases g <;> (unfold Statement; decide)
theorem decB64 (g : Bool) : Statement (.decB64 g) := by cases g <;> (unfold Statement; decide)
theorem decB64Url (g : Bool) : Statement (.decB64Url g) := by cases g <;> (unfold Statement; decide)
theorem decB32 (g : Bool) : Statement (.decB32 g) := by cases g <;> (unfold Statement; decide)
theorem decB32Hex (g : Bool) : Statement (.decB32Hex g) := by cases g <;> (unfold Statement; decide)
theorem decB16 (g : Bool) : Statement (.decB16 g) := by cases g <;> (unfold Statement; decide)
theorem decB2Msbf (g : Bool) : Statement (.decB2Msbf g) := by cases g <;> (unfold Statement; decide)
theorem decB2Lsbf (g : Bool) : Statement (.decB2Lsbf g) := by cases g <;> (unfold Statement; decide)
theorem decZ85 (g : Bool) : Statement (.decZ85 g) := by cases g <;> (unfold Statement; decide)

end Sys2Proof.Laws.CtrlWord
end

