-- ==== Sys2Proof/Tests/Slice0.lean ====
section
/-! SUPPORT. The model's own tests: well-formedness, decoding of words written out from 30_encoding.md R71 and R75,
PROCESS steps on vectors of 95_test_vectors.md, the other steps and the host commands, and for every statement
with hypotheses a state and operands that meet them. -/
namespace Sys2Proof.Tests
open Sys2Proof.Machine

/-! Helpers. -/

/-- A buffer that holds the bytes from index 0. -/
def buffer (bs : List Byte) : Memory := writeCells [] 0 bs

/-- A state in PROCESS with the bytes as its chunk. -/
def processState (eos : Bool) (bs : List Byte) : State :=
  { State.reset with phase := .process, eos := eos, ibuf := buffer bs, ilen := bs.length }

/-- A state in DRAIN with the bytes in OBUF and the host's answers. -/
def drainState (bs : List Byte) (answers : List OutAnswer) : State :=
  { State.reset with phase := .drain, obuf := buffer bs, olen := bs.length, acks := answers }

/-- The state with the entries in CARRY and `n` of them valid. -/
def carrying (c : List (BitVec 7)) (h : c.length = 8) (n : Nat) (s : State) : State :=
  { s with carry := ⟨⟨c⟩, h⟩, carryCnt := n }

/-- What a PROCESS step left in OBUF, none where it did not end in DRAIN. -/
def processed (r : Result) : Option (List Byte) :=
  match r with
  | .next t => if t.phase = .drain then readCells t.obuf 0 t.olen else none
  | _ => none

/-- The error kind of a next state. -/
def raised (r : Result) : Option ErrorKind :=
  match r with
  | .next t => t.err
  | _ => none

/-- The next state, where there is one. -/
def nextState (r : Result) : Option State :=
  match r with
  | .next t => some t
  | _ => none

/-! Well-formedness: every check refuses an ill-formed term. -/

theorem test_params_wf_suggested : Params.suggested.wf = true := by decide
theorem test_params_zero_enc_chunk : (Params.mk 0 8 false).wf = false := by decide
theorem test_params_unaligned_enc_chunk : (Params.mk 61 8 false).wf = false := by decide
theorem test_params_zero_dec_chunk : (Params.mk 60 0 false).wf = false := by decide
theorem test_params_smallest : (Params.mk 60 1 true).wf = true := by decide
theorem test_ctrl_word_reserved_bit : ctrlWordWf 0x20#8 = false := by decide
theorem test_ctrl_word_every_reserved_bit :
    ctrlWordWf 0x40#8 = false ∧ ctrlWordWf 0x80#8 = false ∧ ctrlWordWf 0x1F#8 = true := by decide
theorem test_session_wrap_too_wide : (SessionLine.mk (.encB64 false) (some (2 ^ 32))).wf = false := by decide
theorem test_session_wrap_widest : (SessionLine.mk (.encB64 false) (some (2 ^ 32 - 1))).wf = true := by decide
theorem test_ignored_operand_is_legal : Instr.wf (.encB64 true) = true := by decide

/-! Decoding: the word of each operation, written bit by bit as `000gmsss` (30_encoding.md R71, R72, R75). -/

theorem test_decode_encB64 :
    decode 0b00000000#8 = .ok (.encB64 false) ∧ decode 0b00010000#8 = .ok (.encB64 true) := by
  constructor <;> rfl
theorem test_decode_encB64Url :
    decode 0b00000001#8 = .ok (.encB64Url false) ∧ decode 0b00010001#8 = .ok (.encB64Url true) := by
  constructor <;> rfl
theorem test_decode_encB32 :
    decode 0b00000010#8 = .ok (.encB32 false) ∧ decode 0b00010010#8 = .ok (.encB32 true) := by
  constructor <;> rfl
theorem test_decode_encB32Hex :
    decode 0b00000011#8 = .ok (.encB32Hex false) ∧ decode 0b00010011#8 = .ok (.encB32Hex true) := by
  constructor <;> rfl
theorem test_decode_encB16 :
    decode 0b00000100#8 = .ok (.encB16 false) ∧ decode 0b00010100#8 = .ok (.encB16 true) := by
  constructor <;> rfl
theorem test_decode_encB2Msbf :
    decode 0b00000101#8 = .ok (.encB2Msbf false) ∧ decode 0b00010101#8 = .ok (.encB2Msbf true) := by
  constructor <;> rfl
theorem test_decode_encB2Lsbf :
    decode 0b00000110#8 = .ok (.encB2Lsbf false) ∧ decode 0b00010110#8 = .ok (.encB2Lsbf true) := by
  constructor <;> rfl
theorem test_decode_encZ85 :
    decode 0b00000111#8 = .ok (.encZ85 false) ∧ decode 0b00010111#8 = .ok (.encZ85 true) := by
  constructor <;> rfl
theorem test_decode_decB64 :
    decode 0b00001000#8 = .ok (.decB64 false) ∧ decode 0b00011000#8 = .ok (.decB64 true) := by
  constructor <;> rfl
theorem test_decode_decB64Url :
    decode 0b00001001#8 = .ok (.decB64Url false) ∧ decode 0b00011001#8 = .ok (.decB64Url true) := by
  constructor <;> rfl
theorem test_decode_decB32 :
    decode 0b00001010#8 = .ok (.decB32 false) ∧ decode 0b00011010#8 = .ok (.decB32 true) := by
  constructor <;> rfl
theorem test_decode_decB32Hex :
    decode 0b00001011#8 = .ok (.decB32Hex false) ∧ decode 0b00011011#8 = .ok (.decB32Hex true) := by
  constructor <;> rfl
theorem test_decode_decB16 :
    decode 0b00001100#8 = .ok (.decB16 false) ∧ decode 0b00011100#8 = .ok (.decB16 true) := by
  constructor <;> rfl
theorem test_decode_decB2Msbf :
    decode 0b00001101#8 = .ok (.decB2Msbf false) ∧ decode 0b00011101#8 = .ok (.decB2Msbf true) := by
  constructor <;> rfl
theorem test_decode_decB2Lsbf :
    decode 0b00001110#8 = .ok (.decB2Lsbf false) ∧ decode 0b00011110#8 = .ok (.decB2Lsbf true) := by
  constructor <;> rfl
theorem test_decode_decZ85 :
    decode 0b00001111#8 = .ok (.decZ85 false) ∧ decode 0b00011111#8 = .ok (.decZ85 true) := by
  constructor <;> rfl

theorem test_decode_reserved : decode 0b00100000#8 = .error .reservedBits := by rfl
theorem test_table_word : decodeTableWord 8 0x1D = some (.decB2Msbf true) := by rfl
theorem test_table_word_too_wide : decodeTableWord 8 0x100 = none := by rfl
theorem test_placed_word_runs :
    step (State.reset.withFetchWord 8 0x07) = exec (.encZ85 false) (placeOperation 0x07 State.reset) := by rfl

/-! One PROCESS step of each operation (95_test_vectors.md V1 to V7, S3, S4, S6, P2, P5). -/

/-- S1, V1: two blocks; values 62 and 63. -/
theorem test_encB64 :
    processed (exec (.encB64 false) (processState true [0x41, 0x42, 0x43, 0x44])) =
      some [0x51, 0x55, 0x4A, 0x44, 0x52, 0x41, 0x3D, 0x3D] ∧
    processed (exec (.encB64 false) (processState true [0xFB, 0xFF])) =
      some [0x2B, 0x2F, 0x38, 0x3D] := by decide
/-- V1: values 62 and 63; one byte. -/
theorem test_encB64Url :
    processed (exec (.encB64Url false) (processState true [0xFB, 0xFF])) =
      some [0x2D, 0x5F, 0x38, 0x3D] ∧
    processed (exec (.encB64Url false) (processState true [0xFF])) =
      some [0x5F, 0x77, 0x3D, 0x3D] := by decide
/-- V3: four and three bytes. -/
theorem test_encB32 :
    processed (exec (.encB32 false) (processState true [0x41, 0x42, 0x43, 0x44])) =
      some [0x49, 0x46, 0x42, 0x45, 0x47, 0x52, 0x41, 0x3D] ∧
    processed (exec (.encB32 false) (processState true [0xFB, 0xEF, 0xBE])) =
      some [0x37, 0x50, 0x58, 0x33, 0x34, 0x3D, 0x3D, 0x3D] := by decide
/-- V3: four and two bytes. -/
theorem test_encB32Hex :
    processed (exec (.encB32Hex false) (processState true [0x41, 0x42, 0x43, 0x44])) =
      some [0x38, 0x35, 0x31, 0x34, 0x36, 0x48, 0x30, 0x3D] ∧
    processed (exec (.encB32Hex false) (processState true [0x01, 0x80])) =
      some [0x30, 0x36, 0x30, 0x30, 0x3D, 0x3D, 0x3D, 0x3D] := by decide
/-- V5. -/
theorem test_encB16 :
    processed (exec (.encB16 false) (processState true [0xFB, 0xEF, 0xBE])) =
      some [0x46, 0x42, 0x45, 0x46, 0x42, 0x45] := by decide
/-- V6. -/
theorem test_encB2Msbf :
    processed (exec (.encB2Msbf false) (processState true [0x01, 0x80])) =
      some [0x30, 0x30, 0x30, 0x30, 0x30, 0x30, 0x30, 0x31, 0x31, 0x30, 0x30, 0x30, 0x30, 0x30, 0x30, 0x30] := by decide
/-- V6. -/
theorem test_encB2Lsbf :
    processed (exec (.encB2Lsbf false) (processState true [0x01, 0x80])) =
      some [0x31, 0x30, 0x30, 0x30, 0x30, 0x30, 0x30, 0x30, 0x30, 0x30, 0x30, 0x30, 0x30, 0x30, 0x30, 0x31] := by decide
/-- S6, V7. -/
theorem test_encZ85 :
    processed (exec (.encZ85 false) (processState true [0x86, 0x4F, 0xD2, 0x6F])) =
      some [0x48, 0x65, 0x6C, 0x6C, 0x6F] ∧
    processed (exec (.encZ85 false) (processState true [0xFF, 0xFF, 0xFF, 0xFF])) =
      some [0x25, 0x6E, 0x53, 0x63, 0x30] := by decide
/-- V7. -/
theorem test_encZ85_misaligned :
    raised (exec (.encZ85 false) (processState true [0x86, 0x4F, 0xD2, 0x6F, 0xB5])) =
      some .misalignedLength := by decide
/-- V2: newlines and padding inside a group; the low bits of a partial group. -/
theorem test_decB64 :
    processed (exec (.decB64 false) (processState true [0x51, 0x0A, 0x55, 0x3D, 0x4A, 0x0D, 0x44])) =
      some [0x41, 0x42, 0x43] ∧
    processed (exec (.decB64 false) (processState true [0x51, 0x52, 0x3D, 0x3D])) =
      some [0x41] := by decide
/-- S3, P2: the first chunk in either mode. -/
theorem test_decB64_garbage :
    processed (exec (.decB64 true) (processState true [0x51, 0x55, 0x4A, 0x44, 0x21, 0x21, 0x21, 0x21])) =
      some [0x41, 0x42, 0x43] ∧
    raised (exec (.decB64 false) (processState true [0x51, 0x55, 0x4A, 0x44, 0x21, 0x21, 0x21, 0x21])) =
      some .invalidInputSymbol := by decide
/-- V2. -/
theorem test_decB64Url :
    processed (exec (.decB64Url false) (processState true [0x2D, 0x5F, 0x38, 0x3D])) =
      some [0xFB, 0xFF] ∧
    raised (exec (.decB64Url false) (processState true [0x2B, 0x2F, 0x38, 0x3D])) =
      some .invalidInputSymbol := by decide
/-- V4. -/
theorem test_decB32 :
    processed (exec (.decB32 false) (processState true [0x49, 0x46, 0x42, 0x45, 0x47, 0x52, 0x41, 0x3D])) =
      some [0x41, 0x42, 0x43, 0x44] ∧
    raised (exec (.decB32 false) (processState true [0x69, 0x66, 0x62, 0x65, 0x67, 0x72, 0x61, 0x3D])) =
      some .invalidInputSymbol := by decide
/-- V4. -/
theorem test_decB32Hex :
    processed (exec (.decB32Hex false) (processState true [0x38, 0x35, 0x31, 0x34, 0x36, 0x48, 0x30, 0x3D])) =
      some [0x41, 0x42, 0x43, 0x44] ∧
    raised (exec (.decB32Hex false) (processState true [0x57])) =
      some .invalidInputSymbol := by decide
/-- V5: an odd count, and garbage that leaves one digit. -/
theorem test_decB16 :
    processed (exec (.decB16 false) (processState true [0x34, 0x31, 0x34])) =
      some [0x41] ∧
    processed (exec (.decB16 true) (processState true [0x34, 0x47])) =
      some [] := by decide
/-- V5: the parameter B16_DECODE_LOWERCASE decides what `a` is. -/
theorem test_decB16_lower_case :
    raised (exec (.decB16 false) (processState true [0x34, 0x61])) =
      some .invalidInputSymbol ∧
    processed (exec (.decB16 false) { processState true [0x34, 0x61] with params := ⟨60, 8, true⟩ }) =
      some [0x4A] := by decide
/-- V6, S4. -/
theorem test_decB2Msbf :
    processed (exec (.decB2Msbf false) (processState true [0x30, 0x31, 0x30, 0x30, 0x30, 0x30, 0x30, 0x31])) =
      some [0x41] ∧
    raised (exec (.decB2Msbf true) (processState true [0x30, 0x31, 0x30, 0x30])) =
      some .misalignedLength := by decide
/-- V6, S4. -/
theorem test_decB2Lsbf :
    processed (exec (.decB2Lsbf false) (processState true [0x31, 0x30, 0x30, 0x30, 0x30, 0x30, 0x31, 0x30])) =
      some [0x41] ∧
    raised (exec (.decB2Lsbf false) (processState true [0x30, 0x31, 0x30, 0x30])) =
      some .misalignedLength := by decide
/-- V7: the largest group wraps, and `=` is a digit. -/
theorem test_decZ85 :
    processed (exec (.decZ85 false) (processState true [0x23, 0x23, 0x23, 0x23, 0x23])) =
      some [0x08, 0x78, 0x0E, 0xC4] ∧
    processed (exec (.decZ85 false) (processState true [0x3D, 0x3D, 0x3D, 0x3D, 0x3D])) =
      some [0xCF, 0xCC, 0x0B, 0x9A] := by decide
/-- P5: chunk 1 carries three digits; chunk 2 completes them and carries `W`; a chunk that raises leaves the registers as
they were. -/
theorem test_decZ85_carry :
    (nextState (exec (.decZ85 false) (processState false [0x48, 0x65, 0x6C]))).map
      (fun t => (t.olen, t.carryCnt, (t.carry.toList.take 3).map BitVec.toNat)) = some (0, 3, [43, 14, 21]) ∧
    (nextState (exec (.decZ85 false) (carrying [43, 14, 21, 0, 0, 0, 0, 0] rfl 3
        (processState false [0x6C, 0x6F, 0x57])))).map
      (fun t => (readCells t.obuf 0 t.olen, t.carryCnt, (t.carry.toList.take 1).map BitVec.toNat)) =
        some (some [0x86, 0x4F, 0xD2, 0x6F], 1, [58]) ∧
    (nextState (exec (.decZ85 false) { processState true [0x72, 0x6C] with
        carryCnt := 2, olen := 4, opos := 4 })).map
      (fun t => (t.phase, t.carryCnt, t.olen, t.opos, t.ilen)) = some (.error, 2, 4, 4, 2) := by decide

/-! The other steps (95_test_vectors.md P1, V9) and the wrapper's function (V8). -/

/-- P1: with COL = WRAP the newline goes out first, and OPOS stays. -/
theorem test_newline_before_overflow :
    (nextState (exec (.encB16 false) { drainState [0x52, 0x41] [.ok] with wrap := 4, col := 4 })).map
      (fun t => (t.output, t.col, t.opos)) = some ([0x0A], 0, 0) := by decide

/-- P1: a symbol counts one column. -/
theorem test_symbol_is_counted :
    (nextState (exec (.encB2Msbf false) { drainState [0x52, 0x41] [.ok] with wrap := 4 })).map
      (fun t => (t.output, t.col, t.opos)) = some ([0x52], 1, 1) := by decide

/-- V9: the failed write of the wrapper's newline. -/
theorem test_failed_newline :
    (nextState (exec (.encB2Lsbf false) { drainState [0x52, 0x41] [.err] with wrap := 4, col := 4 })).map
      (fun t => (t.phase, t.err, t.output, t.col, t.opos)) = some (.error, some .ioWriteError, [], 4, 0) := by decide

/-- P1: FINISH writes the trailing newline. -/
theorem test_finish_newline :
    (nextState (exec (.encB32 false) { State.reset with phase := .finish, wrap := 4, col := 4, acks := [.ok] })).map
      (fun t => (t.phase, t.output, t.col)) = some (.done, [0x0A], 0) := by decide

/-- V9: a read error raises IOReadError, whatever is buffered. -/
theorem test_read_error :
    (nextState (exec (.encB64 false) { State.reset with
        phase := .fill, ibuf := buffer [0x41], ilen := 1, input := [.err] })).map
      (fun t => (t.phase, t.err, t.ilen)) = some (.error, some .ioReadError, 1) := by decide

/-- V9: START with a reserved bit set. -/
theorem test_start_reserved :
    (nextState (step { State.reset with ctrl := 0x20, turns := [.cmd .start] })).map (fun t => (t.phase, t.err)) =
      some (.error, some .unsupportedScheme) := by decide

/-- 10_state.md R31: DONE with EOS set reads 0x0D; ERROR with MisalignedLength and EOS set reads 0x2E. -/
theorem test_status_view :
    statusByte { State.reset with phase := .done, eos := true } = 0x0D#8 ∧
    statusByte { State.reset with phase := .error, eos := true, err := some .misalignedLength } = 0x2E#8 := by decide

/-- V8. -/
theorem test_wrap :
    wrapText 4 [0x41, 0x42, 0x43, 0x44, 0x45, 0x46, 0x47, 0x48] =
      [0x41, 0x42, 0x43, 0x44, 0x0A, 0x45, 0x46, 0x47, 0x48, 0x0A] ∧
    wrapText 4 [] = [] ∧ wrapText 0 [0x41] = [0x41] := by decide

/-! Witnesses: for every statement with hypotheses, a state and operands that meet all of them together, for each clause
and at the ends of its range. -/

/-- The reset state in another phase, with the host's turns. -/
def atPhase (p : Phase) (ts : List HostTurn) : State := { State.reset with phase := p, turns := ts }

theorem witness_CtrlDecodeEncodeAgree :
    decode 0x00#8 = .ok (.encB64 false) ∧ decode 0x1F#8 = .ok (.decZ85 true) ∧
    (0x1F#8).extractLsb' 5 3 = 0#3 ∧ (0x20#8).extractLsb' 5 3 ≠ 0#3 ∧ (0xFF#8).extractLsb' 5 3 ≠ 0#3 :=
  ⟨rfl, rfl, by decide, by decide, by decide⟩

theorem witness_StepRunsSelectedOperation :
    (∀ p ∈ [Phase.fill, .process, .drain, .finish], ∀ ts ∈ [[], [.engine, .cmd .reset]],
      (atPhase p ts).params.wf = true ∧ sessionRunning (atPhase p ts) = true ∧ (atPhase p ts).turns = ts) ∧
    decode (atPhase .fill []).ctrl = .ok (.encB64 false) := ⟨by decide, rfl⟩

theorem witness_StepTakesDueHostCommand :
    (∀ c ∈ [HostCmd.start, .reset, .cfgWrite .wrap 0, .read .status],
      (atPhase .drain [.cmd c, .engine]).params.wf = true ∧
      (atPhase .drain [.cmd c, .engine]).turns = .cmd c :: [.engine]) ∧
    (∀ p ∈ [Params.mk 0 8 false, Params.mk 59 8 false, Params.mk 60 0 false],
      p.encChunk = 0 ∨ p.encChunk % 60 ≠ 0 ∨ p.decChunk = 0) := by decide

theorem witness_NoStepWithoutCommandOrAnswer :
    (∀ p ∈ [Phase.idle, .done, .error],
      (atPhase p []).params.wf = true ∧ (atPhase p []).turns = [] ∧ (atPhase p []).phase = p) ∧
    (let s := { atPhase .fill [] with ilen := 59 }
     s.phase = .fill ∧ s.ilen < inCap s.params (modeOf (.encB64 false)) ∧ s.eos = false ∧ s.input = []) ∧
    (let s := drainState [0x41] []
     s.phase = .drain ∧ s.opos < s.olen ∧ readCell s.obuf s.opos = some 0x41 ∧ s.acks = []) ∧
    (let s := { atPhase .finish [] with col := 76 }
     modeOf (.encB64 false) = .encode ∧ s.phase = .finish ∧ s.wrap ≠ 0#32 ∧ s.col ≠ 0#32 ∧ s.acks = []) := by decide

theorem witness_ResetRestoresResetValues :
    ∀ p ∈ [Phase.idle, .drain, .error],
      (atPhase p [.cmd .reset, .engine]).params.wf = true ∧
      (atPhase p [.cmd .reset, .engine]).turns = .cmd .reset :: [.engine] := by decide

theorem witness_CfgWriteOnlyInIdle :
    (∀ r ∈ [CfgReg.ctrl, .wrap], ∀ v ∈ [0, 2 ^ 8, 2 ^ 32 - 1, 2 ^ 32], ∀ p ∈ [Phase.idle, .fill, .error],
      (atPhase p [.cmd (.cfgWrite r v)]).params.wf = true ∧
      (atPhase p [.cmd (.cfgWrite r v)]).turns = .cmd (.cfgWrite r v) :: [] ∧
      (atPhase p [.cmd (.cfgWrite r v)]).phase = p) := by decide

theorem witness_StartBeginsSessionOrRaises :
    (∀ p ∈ [Phase.idle, .fill, .done], ∀ c ∈ [0x1F#8, 0x20#8],
      (let s := { atPhase p [.cmd .start] with ctrl := c }
       s.params.wf = true ∧ s.turns = .cmd .start :: [] ∧ s.phase = p ∧ s.ctrl = c)) ∧
    (0x1F#8).extractLsb' 5 3 = 0#3 ∧ (0x20#8).extractLsb' 5 3 ≠ 0#3 := by decide

theorem witness_HostReadHasNoSideEffect :
    ∀ r ∈ [HostReg.status, .ctrl, .wrap],
      (atPhase .error [.cmd (.read r)]).params.wf = true ∧
      (atPhase .error [.cmd (.read r)]).turns = .cmd (.read r) :: [] := by decide

theorem witness_BootSequenceStartsSession :
    ∀ w ∈ [none, some 0, some (2 ^ 32 - 1)], ∀ i ∈ [Instr.encZ85 false, .decZ85 true],
      (SessionLine.mk i w).wf = true := by decide

theorem witness_FillTakesOneItemOrEnds :
    (∀ i ∈ [Instr.encB64 false, .decB64 false], ∀ x ∈ [InItem.byte 0x41, .eos, .err],
      (let s := { atPhase .fill [] with ilen := inCap Params.suggested (modeOf i) - 1, input := [x] }
       s.phase = .fill ∧ s.ilen < inCap s.params (modeOf i) ∧ s.eos = false ∧ s.input = x :: [])) ∧
    (let s := { atPhase .fill [] with ilen := 60 }
     s.phase = .fill ∧ s.ilen = inCap s.params (modeOf (.encB64 false))) ∧
    (let s := { atPhase .fill [] with eos := true }
     s.phase = .fill ∧ s.eos = true) := by decide

/-- Chunks of no byte, of 3, of 4, and a full one. -/
theorem witness_EncodeProcessPacksChunk :
    (∀ n ∈ [0, 3, 4, 60],
      (processState false (List.replicate n 0x41)).phase = .process ∧
      (processState false (List.replicate n 0x41)).ilen ≤ Params.suggested.encChunk ∧
      readCells (processState false (List.replicate n 0x41)).ibuf 0 (processState false (List.replicate n 0x41)).ilen =
        some (List.replicate n 0x41)) ∧
    (.encB2Lsbf true, .base2lsbf) ∈ radixEncodeOps true ∧ 3 % 4 ≠ 0 ∧ 4 % 4 = 0 ∧ Params.suggested.wf = true ∧
    (List.replicate 60 0x41#8).length = Params.suggested.encChunk :=
  ⟨fun n hn => ⟨rfl, by simp at hn; simp [processState, Params.suggested]; omega, readCells_writeCells _ _⟩,
    by decide, by decide, by decide, by decide, by simp [Params.suggested]⟩

/-- The symbols a decode PROCESS step leaves over. -/
def chunkLeft (s : State) (sc : Scheme) (data : List Byte) : List Nat :=
  leftover sc ((s.carry.toList.take s.carryCnt).map BitVec.toNat ++ validSymbols s.params.b16DecodeLowercase sc data)

/-- The hypotheses every clause of the decode PROCESS statement shares. -/
def decodable (g : Bool) (p : Instr × Scheme) (s : State) (data : List Byte) : Bool :=
  decide (p ∈ decodeOps g) && decide (s.phase = .process) && decide (s.ilen ≤ s.params.decChunk) &&
    decide (s.carryCnt < groupSymbols p.2) && decide (readCells s.ibuf 0 s.ilen = some data)

/-- A strict chunk with an invalid byte; a non-final chunk with garbage skipped; a full non-final chunk behind seven
carried symbols. -/
theorem witness_DecodeProcessUnpacksChunk :
    (decodable false (.decB64 false, .base64) (processState false [0x21]) [0x21] = true ∧
      hasInvalid false .base64 [0x21] = true) ∧
    (decodable true (.decB64 true, .base64) (processState false [0x21, 0x41]) [0x21, 0x41] = true ∧
      (processState false [0x21, 0x41]).eos = false) ∧
    (decodable false (.decB32 false, .base32)
        (carrying [31, 31, 31, 31, 31, 31, 31, 0] rfl 7 (processState false (List.replicate 8 0x37)))
        (List.replicate 8 0x37) = true ∧ hasInvalid false .base32 (List.replicate 8 0x37) = false) := by decide

/-- Final chunks: a leftover that is an error, for base2 and, all of it carried, for z85; one base16 digit; no symbol; a
partial group. -/
theorem witness_DecodeProcessUnpacksChunk_final :
    (decodable true (.decB2Lsbf true, .base2lsbf) (processState true [0x30]) [0x30] = true ∧
      chunkLeft (processState true [0x30]) .base2lsbf [0x30] ≠ []) ∧
    (decodable false (.decZ85 false, .z85) (carrying [84, 84, 84, 84, 0, 0, 0, 0] rfl 4 (processState true [])) [] =
        true ∧ chunkLeft (carrying [84, 84, 84, 84, 0, 0, 0, 0] rfl 4 (processState true [])) .z85 [] ≠ []) ∧
    (decodable false (.decB16 false, .base16) (processState true [0x34]) [0x34] = true ∧
      chunkLeft (processState true [0x34]) .base16 [0x34] ≠ []) ∧
    (decodable false (.decB64Url false, .base64url) (processState true []) [] = true ∧
      chunkLeft (processState true []) .base64url [] = []) ∧
    (decodable false (.decB32Hex false, .base32hex) (processState true [0x56, 0x56]) [0x56, 0x56] = true ∧
      chunkLeft (processState true [0x56, 0x56]) .base32hex [0x56, 0x56] ≠ []) := by decide

theorem witness_DecodeDrainWritesNextByte :
    ∀ a ∈ [OutAnswer.ok, .err],
      (let s := drainState [0x41] [a]
       (.decZ85 true, .z85) ∈ decodeOps true ∧ s.phase = .drain ∧ s.opos < s.olen ∧
       readCell s.obuf s.opos = some 0x41 ∧ s.acks = a :: []) := by decide

/-- A full line, a line with room, and no wrapping. -/
theorem witness_EncodeDrainGoesThroughWrapper :
    (∀ a ∈ [OutAnswer.ok, .err],
      (let s := { drainState [0x41] [a] with wrap := 1, col := 1 }
       modeOf (.encB64 false) = .encode ∧ s.phase = .drain ∧ s.opos < s.olen ∧
       readCell s.obuf s.opos = some 0x41 ∧ s.acks = a :: [] ∧ s.wrap ≠ 0#32 ∧ s.col = s.wrap)) ∧
    (let s := { drainState [0x41] [.ok] with wrap := 2, col := 1 }
     s.acks = .ok :: [] ∧ s.wrap ≠ 0#32 ∧ s.col ≠ s.wrap) ∧
    (let s := { drainState [0x41] [.ok] with wrap := 0 }
     s.acks = .ok :: [] ∧ s.wrap = 0#32) := by decide

theorem witness_DrainEndsInFinishOrFill :
    ∀ e ∈ [true, false],
      (let s := { drainState [0x41] [] with opos := 1, eos := e }
       s.phase = .drain ∧ s.opos = s.olen ∧ s.eos = e) := by decide

theorem witness_FinishWritesTrailingNewline :
    (∀ a ∈ [OutAnswer.ok, .err],
      (let s := { atPhase .finish [] with col := 1, acks := [a] }
       s.phase = .finish ∧ modeOf (.encB64 false) = .encode ∧ s.wrap ≠ 0#32 ∧ s.col ≠ 0#32 ∧ s.acks = a :: [])) ∧
    (atPhase .finish []).phase = .finish ∧ (atPhase .finish []).col = 0#32 ∧ modeOf (.decB64 false) = .decode ∧
    (let s := { atPhase .finish [] with wrap := 0, col := 1 }
     s.phase = .finish ∧ s.wrap = 0#32) := by decide

/-- A read error in FILL, and START with reserved bits, are steps into ERROR. -/
theorem witness_ErrorEntryChangesOnlyErrAndPhase :
    (∃ t, step { atPhase .fill [] with input := [.err] } = .next t ∧ t.phase = .error) ∧
    (∃ t, step { atPhase .idle [.cmd .start] with ctrl := 0xE0 } = .next t ∧ t.phase = .error) ∧
    (atPhase .fill []).phase ≠ .error ∧ (atPhase .idle []).phase ≠ .error :=
  ⟨⟨_, rfl, rfl⟩, ⟨_, rfl, rfl⟩, by decide, by decide⟩

theorem witness_ErrorIsTerminalUntilReset :
    (∀ c ∈ [HostCmd.start, .cfgWrite .ctrl 0, .read .status],
      (atPhase .error [.cmd c]).phase = .error ∧ (nextState (step (atPhase .error [.cmd c]))).isSome = true) ∧
    (∀ rest, (atPhase .error [.cmd .start]).turns ≠ .cmd .reset :: rest) ∧
    (atPhase .error [.cmd .reset]).phase = .error ∧ (atPhase .error [.cmd .reset]).params.wf = true ∧
    (atPhase .error [.cmd .reset]).turns = .cmd .reset :: [] :=
  ⟨by decide, fun rest h => (by cases h), by decide, by decide, by decide⟩

theorem witness_ReadErrorDiscardsChunk :
    let s := { atPhase .fill [] with ilen := 59, input := [.err] }
    s.phase = .fill ∧ s.ilen < inCap s.params (modeOf (.encB64 false)) ∧ s.eos = false ∧ s.input = .err :: [] := by
  decide

theorem witness_WriteErrorEndsSession :
    (let s := drainState [0x41] [.err]
     s.acks = .err :: [] ∧ s.phase = .drain ∧ s.opos < s.olen ∧ (readCell s.obuf s.opos).isSome) ∧
    (let s := { atPhase .finish [] with col := 1, acks := [.err] }
     s.acks = .err :: [] ∧ s.phase = .finish ∧ modeOf (.encB64 false) = .encode ∧ s.wrap ≠ 0#32 ∧ s.col ≠ 0#32) := by
  decide

theorem witness_InvalidSymbolOnlyInStrictDecode :
    (∃ t, exec (.decB64 false) (processState false [0x21]) = .next t ∧ t.err = some .invalidInputSymbol) ∧
    (processState false [0x21]).err ≠ some .invalidInputSymbol ∧
    (let s := processState false [0x21]
     s.phase = .process ∧ modeOf (.decB64 false) = .decode ∧ ignoreGarbageOf (.decB64 false) = false ∧
     s.ilen ≤ s.params.decChunk ∧ readCells s.ibuf 0 s.ilen = some [0x21] ∧
     hasInvalid s.params.b16DecodeLowercase (schemeOf (.decB64 false)) [0x21] = true) :=
  ⟨⟨_, rfl, by decide⟩, by decide, by decide⟩

/-- Each of the three causes, and none of them. -/
theorem witness_MisalignedLengthHasThreeCauses :
    [0x41#8].length % 4 ≠ 0 ∧ (validSymbols false .z85 [0x48#8]).length % 5 ≠ 0 ∧
    hasInvalid false .z85 [0x48#8] = false ∧ (validSymbols false .base2msbf [0x30#8]).length % 8 ≠ 0 ∧
    hasInvalid false .base2msbf [0x30#8] = false ∧ (validSymbols false .base2lsbf [0x31#8]).length % 8 ≠ 0 ∧
    hasInvalid false .base2lsbf [0x31#8] = false ∧ ([] : List Byte).length % 4 = 0 := by decide

/-- The last chunk of ENC.Z85, of one byte. -/
def misalignedState : State := { processState true [0x41] with ctrl := 0x07, turns := [.engine] }

/-- A state that meets the invariant with the last chunk of a session in IBUF. -/
theorem misalignedState_inv : Inv misalignedState where
  params := by decide
  canonical := by unfold BuffersCanonical; decide
  column := ⟨by decide, by decide, by decide⟩
  error := ⟨by decide, by decide⟩
  bounds := ⟨by decide, by decide, by decide, by decide, by unfold Written; decide, by unfold Written; decide, by decide⟩
  phase := ⟨by decide, by decide, by decide, by decide, by decide, by decide⟩

theorem witness_MisalignedLengthJudgedAtEndOfStream :
    Inv misalignedState ∧ misalignedState.err ≠ some .misalignedLength ∧
    ∃ t, step misalignedState = .next t ∧ t.err = some .misalignedLength :=
  ⟨misalignedState_inv, by decide, _, rfl, by decide⟩

theorem witness_MemoryExhaustedNeverRaised :
    ∃ t, step { atPhase .idle [.cmd (.read .status)] with err := some .memoryExhausted } = .next t ∧
      t.err = some .memoryExhausted := ⟨_, rfl, rfl⟩

theorem witness_IgnoreGarbageRemovesOneCause :
    ((.decB64 true, .base64), (.decB64 false, .base64)) ∈ (decodeOps true).zip (decodeOps false) ∧
    (atPhase .fill []).phase ≠ .process ∧
    (let s := processState true [0x51]
     s.phase = .process ∧ readCells s.ibuf 0 s.ilen = some [0x51] ∧
     hasInvalid s.params.b16DecodeLowercase .base64 [0x51] = false) ∧
    (∃ t, exec (.decB64 true) { atPhase .finish [] with err := some .invalidInputSymbol } = .next t ∧
      t.err = some .invalidInputSymbol) ∧
    (atPhase .idle []).phase = .idle ∧ Scheme.base16 ≠ .z85 :=
  ⟨by decide, by decide, by decide, ⟨_, rfl, rfl⟩, by decide, by decide⟩

theorem witness_OutputIsNeverRetracted :
    (∃ t, step (drainState [0x41] [.ok]) = .next t ∧ t.output = [0x41]) ∧
    (∃ t, step (drainState [0x41] [.err]) = .next t ∧ t.output = []) := ⟨⟨_, rfl, rfl⟩, ⟨_, rfl, rfl⟩⟩

theorem witness_FullBlockSymbolsAreBitFields :
    (∀ sc ∈ [Scheme.base64, .base64url, .base32, .base32hex, .base16, .base2msbf],
      sc ≠ .base2lsbf ∧ sc ≠ .z85 ∧ (List.replicate (blockBytes sc) 0xFF#8).length = blockBytes sc ∧
      0 < groupSymbols sc ∧ groupSymbols sc - 1 < groupSymbols sc) := by decide

theorem witness_FullBlockSymbolsByShiftsAndMasks :
    Scheme.base64url ∈ [Scheme.base64, .base64url] ∧ Scheme.base32hex ∈ [Scheme.base32, .base32hex] ∧
    Scheme.base2lsbf ≠ .z85 ∧ [0x41#8].length = blockBytes .base2lsbf := by decide

theorem witness_PartialBlockPadsWithEquals :
    Scheme.base64 ∈ [Scheme.base64, .base64url] ∧ Scheme.base32 ∈ [Scheme.base32, .base32hex] ∧
    Scheme.base64 ≠ .z85 ∧ 0 < [0x41#8, 0x42#8].length ∧ [0x41#8, 0x42#8].length < blockBytes .base64 ∧
    Scheme.base32hex ≠ .z85 ∧ [0x41#8, 0x42#8, 0x43#8, 0x44#8].length < blockBytes .base32hex := by decide

theorem witness_EncodedLengthLaw :
    Scheme.base64 ≠ .z85 ∧ Scheme.base32 ≠ .z85 ∧ Scheme.base16 ≠ .z85 ∧
    (Scheme.base64url = .base64 ∨ Scheme.base64url = .base64url) ∧
    (Scheme.base32hex = .base32 ∨ Scheme.base32hex = .base32hex) := by decide

theorem witness_Z85EncodedLength :
    ([] : List Byte).length % 4 = 0 ∧ [0#8, 1#8, 2#8, 3#8].length % 4 = 0 ∧ [0#8].length % 4 ≠ 0 ∧
    [0#8, 1#8, 2#8].length % 4 ≠ 0 := by decide

theorem witness_RadixRoundTrip : ∀ sc ∈ [Scheme.base64, .base64url, .base32, .base32hex, .base16, .base2msbf, .base2lsbf],
    sc ≠ .z85 := by decide

theorem witness_Z85RoundTrip :
    ([] : List Byte).length % 4 = 0 ∧ [0x86#8, 0x4F#8, 0xD2#8, 0x6F#8].length % 4 = 0 := by decide

theorem witness_LookupInvertsAlphabet :
    0 < radix .z85 ∧ 84 < radix .z85 ∧ lookup false .z85 0x23#8 = some 84 ∧ lookup true .base16 0x66#8 = some 15 ∧
    0x7F ≤ (0x7F#8).toNat ∧ 0x7F ≤ (0xFF#8).toNat ∧ (0x20#8).toNat ≤ 0x20 ∧ (0x00#8).toNat ≤ 0x20 := by decide

theorem witness_FullGroupBytesByShifts :
    (0x00#8).toNat < 16 ∧ (0x0F#8).toNat < 16 ∧ (0x1F#8).toNat < 32 ∧ (0x3F#8).toNat < 64 ∧
    Scheme.base64 ∈ [Scheme.base64, .base64url] ∧ Scheme.base32 ∈ [Scheme.base32, .base32hex] := by decide

theorem witness_PartialGroupKeepsLeadingBits :
    (∀ v ∈ [0, 63], v < radix .base64) ∧ (∀ v ∈ [31, 31, 31, 31, 31, 31, 31], v < radix .base32hex) ∧
    0 < [0, 63].length * symbolBits .base64 / 8 ∧
    3 < [31, 31, 31, 31, 31, 31, 31].length * symbolBits .base32hex / 8 := by decide

theorem witness_DecodeIsGroupedValidSymbols :
    hasInvalid false .z85 [0x20#8] = true ∧
    (hasInvalid false .base64 [0x51#8, 0x55#8, 0x4A#8, 0x44#8] = false ∧
      leftover .base64 (validSymbols false .base64 [0x51#8, 0x55#8, 0x4A#8, 0x44#8]) = []) ∧
    leftover .base16 (validSymbols false .base16 [0x34#8]) ≠ [] ∧
    leftover .z85 (validSymbols false .z85 [0x48#8]) ≠ [] ∧
    leftover .base2msbf (validSymbols false .base2msbf [0x30#8]) ≠ [] ∧
    leftover .base32 (validSymbols false .base32 [0x41#8]) ≠ [] := by decide

theorem witness_NewlinesAreSkippedAnywhere :
    Scheme.base64 ≠ .z85 ∧ Scheme.base2lsbf ≠ .z85 ∧ (0x0A#8 = 0x0A#8 ∨ 0x0A#8 = 0x0D#8) ∧
    (0x0D#8 = 0x0A#8 ∨ 0x0D#8 = 0x0D#8) := by decide

theorem witness_EqualsIsPaddingOrZ85Digit : Scheme.base64 ≠ .z85 ∧ Scheme.base16 ≠ .z85 := by decide

theorem witness_InvalidBytesEndOrAreSkipped :
    Scheme.base64 ≠ .z85 ∧ classify false .base64 0x21#8 = .inv ∧ classify false .base16 0x67#8 = .inv ∧
    classify true .base2lsbf 0xFF#8 = .inv := by decide

theorem witness_Base2NeedsMultipleOfEight :
    hasInvalid false .base2msbf [0x30#8, 0x0A#8] = false ∧ hasInvalid false .base2lsbf [0x32#8] = true := by decide

theorem witness_EncodingMayBeCutAtBlocks :
    Scheme.base64 ≠ .z85 ∧ [0x41#8, 0x42#8, 0x43#8].length % blockBytes .base64 = 0 ∧
    ([] : List Byte).length % blockBytes .base32 = 0 ∧ [0x41#8, 0x42#8, 0x43#8].length = blockBytes .base64 ∧
    (∃ x, encZ85 [] = .ok x) ∧ (∃ x, encZ85 [0#8, 0#8, 0#8, 0#8] = .ok x) :=
  ⟨by decide, by decide, by decide, by decide, ⟨_, rfl⟩, ⟨_, rfl⟩⟩

theorem witness_WrappedTextKeepsSymbols :
    (0x0A#8 : Byte) ∉ [0x41#8, 0x42#8] ∧ 0 < 1 ∧
    wrapText 1 [0x41#8, 0x42#8] = [] ++ [0x41#8] ++ [0x0A#8, 0x42#8, 0x0A#8] ∧ (0x0A#8 : Byte) ∉ [0x41#8] := by decide

/-- The last chunk `AB` of an encode session with the host's answers to come. -/
def lastDrain (w : Word) (n : Nat) : State :=
  { drainState [0x41, 0x42] (List.replicate n .ok) with eos := true, wrap := w }

theorem witness_FinalDrainWritesWrappedText :
    modeOf (.encB64 false) = .encode ∧ decode (lastDrain 1 4).ctrl = .ok (.encB64 false) ∧
    (∀ w ∈ [0#32, 1#32],
      (lastDrain w 4).params.wf = true ∧ (lastDrain w 4).turns = [] ∧ (lastDrain w 4).phase = .drain ∧
      (lastDrain w 4).eos = true ∧ (lastDrain w 4).col = 0#32 ∧ (lastDrain w 4).opos = 0 ∧
      (lastDrain w 4).olen = [0x41#8, 0x42#8].length ∧
      readCells (lastDrain w 4).obuf 0 (lastDrain w 4).olen = some [0x41, 0x42]) ∧
    (lastDrain 1 4).acks = List.replicate (wrapText 1 [0x41#8, 0x42#8]).length .ok ++ [] ∧
    (lastDrain 0 4).acks = List.replicate (wrapText 0 [0x41#8, 0x42#8]).length .ok ++ [.ok, .ok] :=
  ⟨rfl, rfl, fun _ _ => ⟨test_params_wf_suggested, rfl, rfl, rfl, rfl, rfl, rfl, rfl⟩, by decide, by decide⟩

/-- A session that has just started, with its input to come. -/
def startedSession (i : Instr) (inp : List Byte) : State :=
  { atPhase .fill [] with ctrl := Sys2Proof.encode i, input := inp.map InItem.byte ++ [InItem.eos, InItem.err] }

theorem witness_SessionMeetsFunctionalResult :
    ∀ i ∈ [Instr.encZ85 false, .decB64 true], ∀ inp ∈ [([] : List Byte), [0x41, 0x42, 0x43]],
      (let s := startedSession i inp
       s.params.wf = true ∧ s.turns = [] ∧ s.ctrl = Sys2Proof.encode i ∧ s.phase = .fill ∧ s.eos = false ∧
       s.err = none ∧ s.ilen = 0 ∧ s.olen = 0 ∧ s.opos = 0 ∧ s.col = 0#32 ∧ s.carryCnt = 0 ∧
       s.input = inp.map InItem.byte ++ InItem.eos :: [InItem.err]) := by decide

theorem witness_StepKeepsInvariant : Inv misalignedState ∧ ∃ t, step misalignedState = .next t :=
  ⟨misalignedState_inv, _, rfl⟩

theorem witness_InvariantExcludesInternalStops : Inv misalignedState := misalignedState_inv

theorem witness_StepKeepsBuffersCanonical : BuffersCanonical misalignedState ∧ ∃ t, step misalignedState = .next t :=
  ⟨misalignedState_inv.canonical, _, rfl⟩

/-- A line one symbol short of full, and the symbol that fills it. -/
theorem witness_StepKeepsColumnWithinWrap :
    ColumnInv { drainState [0x41] [.ok] with wrap := 0xFFFFFFFF, col := 0xFFFFFFFE } ∧
    ∃ t, step { drainState [0x41] [.ok] with wrap := 0xFFFFFFFF, col := 0xFFFFFFFE } = .next t ∧
      t.col = 0xFFFFFFFF#32 := ⟨⟨by decide, by decide, by decide⟩, _, rfl, by decide⟩

theorem witness_StepKeepsErrOnlyInError :
    ErrorInv { atPhase .fill [] with input := [.err] } ∧
    ∃ t, step { atPhase .fill [] with input := [.err] } = .next t ∧ t.err = some .ioReadError :=
  ⟨⟨by decide, by decide⟩, _, rfl, by decide⟩

theorem witness_ConfigurationStableInSession :
    (∃ t, step (atPhase .fill [.cmd (.cfgWrite .wrap 4)]) = .next t ∧ t.wrap = 76#32) ∧
    (∃ t, step (atPhase .error [.cmd .reset]) = .next t) ∧ (atPhase .fill []).phase ≠ .idle :=
  ⟨⟨_, rfl, by decide⟩, ⟨_, rfl⟩, by decide⟩

/-- A next state in each of the four phases. -/
theorem witness_OperationFrame :
    (nextState (exec (.encB64 false) { atPhase .fill [] with input := [.byte 0x41] })).isSome = true ∧
    (nextState (exec (.decB64 false) (processState false [0x51]))).isSome = true ∧
    (nextState (exec (.encB64 false) (drainState [0x41] [.ok]))).isSome = true ∧
    (nextState (exec (.decB64 false) (atPhase .finish []))).isSome = true := by decide

theorem witness_StreamsTouchedOnlyInTheirPhases :
    (nextState (exec (.encB64 false) { atPhase .fill [] with input := [.eos] })).isSome = true ∧
    (nextState (exec (.decB64 false) (drainState [0x41] [.ok]))).isSome = true ∧
    (nextState (exec (.decB64 false) (drainState [0x41] [.err]))).isSome = true := by decide

end Sys2Proof.Tests
end

section
/-! The alphabets and their inverse (30_encoding.md R80 to R88): what a lookup answers, as an
equivalence with `alpha`. -/
namespace Sys2Proof.Machine

theorem rangeValue_eq_some_iff {c : Byte} {lo hi base v : Nat} :
    rangeValue c lo hi base = some v ↔ (lo ≤ c.toNat ∧ c.toNat ≤ hi) ∧ c.toNat - lo + base = v := by
  simp [rangeValue]

theorem rangeValue_eq_none_iff {c : Byte} {lo hi base : Nat} :
    rangeValue c lo hi base = none ↔ ¬ (lo ≤ c.toNat ∧ c.toNat ≤ hi) := by
  simp [rangeValue]

/-- A character given by its number, compared as numbers: the form the range lookups speak of. -/
theorem ofNat_eq_byte_iff {n : Nat} {c : Byte} (h : n < 256) : BitVec.ofNat 8 n = c ↔ n = c.toNat := by
  rw [← BitVec.toNat_inj, BitVec.toNat_ofNat, Nat.mod_eq_of_lt h]

/-- A lookup in one range from value 0 inverts the range's characters (base2, R86). -/
theorem rangeValue_eq_some_iff_char {c : Byte} {lo n v : Nat} (hlo : lo + n < 256) :
    rangeValue c lo (lo + n) 0 = some v ↔ v < n + 1 ∧ BitVec.ofNat 8 (lo + v) = c := by
  rw [rangeValue_eq_some_iff]
  constructor
  · rintro ⟨⟨hl, hh⟩, rfl⟩
    exact ⟨by omega, (ofNat_eq_byte_iff (by omega)).2 (by omega)⟩
  · rintro ⟨hv, hc⟩
    have hc := (ofNat_eq_byte_iff (by omega)).1 hc
    omega

/-- A lookup in two disjoint ranges, the second continuing the values of the first, inverts the characters of the two
(base32, base32hex and upper-case base16, R83 to R85). -/
theorem rangeValue_orElse_eq_some_iff_char {c : Byte} {lo₁ n₁ lo₂ n₂ v : Nat} (h₁ : lo₁ + n₁ < 256)
    (h₂ : lo₂ + n₂ < 256) (hd : lo₁ + n₁ < lo₂ ∨ lo₂ + n₂ < lo₁) :
    (rangeValue c lo₁ (lo₁ + n₁) 0 <|> rangeValue c lo₂ (lo₂ + n₂) (n₁ + 1)) = some v ↔
      v < n₁ + 1 + (n₂ + 1) ∧
      (if v ≤ n₁ then BitVec.ofNat 8 (lo₁ + v) else BitVec.ofNat 8 (lo₂ + (v - (n₁ + 1)))) = c := by
  simp only [Option.orElse_eq_orElse, Option.orElse_eq_or, Option.or_eq_some_iff, rangeValue_eq_some_iff,
    rangeValue_eq_none_iff]
  split
  · rw [ofNat_eq_byte_iff (by omega)]
    omega
  · constructor
    · intro h
      exact ⟨by omega, (ofNat_eq_byte_iff (by omega)).2 (by omega)⟩
    · rintro ⟨hv, hc⟩
      have hc := (ofNat_eq_byte_iff (by omega)).1 hc
      omega

/-- The last two characters of base64 and base64url are outside the three ranges of the rest (R81, R82). -/
def OutsideBase64Ranges (d : Byte) : Prop :=
  rangeValue d 0x41 0x5A 0 = none ∧ rangeValue d 0x61 0x7A 26 = none ∧ rangeValue d 0x30 0x39 52 = none

section Base64
variable {c62 c63 c : Byte} {v : Nat}

/-- What the lookup of base64 and base64url answers is a position in their alphabet (R81, R82). -/
theorem alphaBase64_of_lookupBase64 (h : lookupBase64 c62 c63 c = some v) : v < 64 ∧ alphaBase64 c62 c63 v = c := by
  simp only [lookupBase64, Option.orElse_eq_orElse, Option.orElse_eq_or, Option.or_eq_some_iff,
    rangeValue_eq_some_iff] at h
  obtain ⟨hr, hv⟩ | ⟨-, ⟨hr, hv⟩ | ⟨-, ⟨hr, hv⟩ | ⟨-, hlast⟩⟩⟩ := h
  · refine ⟨by omega, ?_⟩
    rw [alphaBase64, if_pos (by omega), ofNat_eq_byte_iff (by omega)]
    omega
  · refine ⟨by omega, ?_⟩
    rw [alphaBase64, if_neg (by omega), if_pos (by omega), ofNat_eq_byte_iff (by omega)]
    omega
  · refine ⟨by omega, ?_⟩
    rw [alphaBase64, if_neg (by omega), if_neg (by omega), if_pos (by omega), ofNat_eq_byte_iff (by omega)]
    omega
  · split at hlast
    · next hc => cases hlast; exact ⟨by omega, hc.symm⟩
    · split at hlast
      · next hc => cases hlast; exact ⟨by omega, hc.symm⟩
      · contradiction

/-- Every character of base64 and base64url is found at its position (R81, R82). -/
theorem lookupBase64_of_alphaBase64 (hne : c62 ≠ c63) (h62 : OutsideBase64Ranges c62) (h63 : OutsideBase64Ranges c63)
    (hv : v < 64) (hc : alphaBase64 c62 c63 v = c) : lookupBase64 c62 c63 c = some v := by
  unfold alphaBase64 at hc
  split_ifs at hc with hu hl hd h2
  · have hc := (ofNat_eq_byte_iff (by omega)).1 hc
    have hval : rangeValue c 0x41 0x5A 0 = some v := rangeValue_eq_some_iff.2 (by omega)
    simp [lookupBase64, hval]
  · have hc := (ofNat_eq_byte_iff (by omega)).1 hc
    have hupper : rangeValue c 0x41 0x5A 0 = none := rangeValue_eq_none_iff.2 (by omega)
    have hval : rangeValue c 0x61 0x7A 26 = some v := rangeValue_eq_some_iff.2 (by omega)
    simp [lookupBase64, hupper, hval]
  · have hc := (ofNat_eq_byte_iff (by omega)).1 hc
    have hupper : rangeValue c 0x41 0x5A 0 = none := rangeValue_eq_none_iff.2 (by omega)
    have hlower : rangeValue c 0x61 0x7A 26 = none := rangeValue_eq_none_iff.2 (by omega)
    have hval : rangeValue c 0x30 0x39 52 = some v := rangeValue_eq_some_iff.2 (by omega)
    simp [lookupBase64, hupper, hlower, hval]
  · subst hc h2
    obtain ⟨hupper, hlower, hdigit⟩ := h62
    simp [lookupBase64, hupper, hlower, hdigit]
  · subst hc
    obtain rfl : v = 63 := by omega
    obtain ⟨hupper, hlower, hdigit⟩ := h63
    simp [lookupBase64, hupper, hlower, hdigit, hne.symm]

theorem lookupBase64_eq_some_iff (hne : c62 ≠ c63) (h62 : OutsideBase64Ranges c62) (h63 : OutsideBase64Ranges c63) :
    lookupBase64 c62 c63 c = some v ↔ v < 64 ∧ alphaBase64 c62 c63 v = c :=
  ⟨alphaBase64_of_lookupBase64, fun ⟨hv, hc⟩ => lookupBase64_of_alphaBase64 hne h62 h63 hv hc⟩

end Base64

/-- Every entry of the Z85 decode table is the position in the alphabet of the byte it stands for (R87, R88). -/
theorem z85Table_entry :
    ∀ i < 93, ∀ v ∈ z85Table.getD i none, v < 85 ∧ alphaZ85 v = BitVec.ofNat 8 (33 + i) := by decide

theorem lookupZ85_alphaZ85 : ∀ v < 85, lookupZ85 (alphaZ85 v) = some v := by decide

theorem lookupZ85_eq_some_iff {c : Byte} {v : Nat} : lookupZ85 c = some v ↔ v < 85 ∧ alphaZ85 v = c := by
  constructor
  · intro h
    unfold lookupZ85 at h
    split at h
    · contradiction
    · next hr =>
      obtain ⟨hv, ha⟩ := z85Table_entry (c.toNat - 33) (by omega) v h
      exact ⟨hv, ha.trans ((ofNat_eq_byte_iff (by omega)).2 (by omega))⟩
  · rintro ⟨hv, rfl⟩
    exact lookupZ85_alphaZ85 v hv

/-- The upper-case lookup of base16 inverts its alphabet (R85). -/
theorem lookupBase16_false_eq_some_iff {c : Byte} {v : Nat} :
    lookupBase16 false c = some v ↔ v < 16 ∧ alpha .base16 v = c := by
  simpa [lookupBase16, alpha] using
    rangeValue_orElse_eq_some_iff_char (c := c) (lo₁ := 0x30) (n₁ := 9) (lo₂ := 0x41) (n₂ := 5) (v := v)
      (by decide) (by decide) (by decide)

/-- `v` is the value of the lower-case hexadecimal digit `c`, where B16_DECODE_LOWERCASE accepts it (R85). -/
def IsLowerHexValue (low : Bool) (sc : Scheme) (c : Byte) (v : Nat) : Prop :=
  sc = .base16 ∧ low = true ∧ 0x61 ≤ c.toNat ∧ c.toNat ≤ 0x66 ∧ v = c.toNat - 0x61 + 10

theorem isLowerHexValue_iff_false {low : Bool} {sc : Scheme} {c : Byte} {v : Nat} (h : sc ≠ .base16) :
    IsLowerHexValue low sc c v ↔ False :=
  iff_false_intro fun hl => h hl.1

/-- Accepting lower-case digits adds their values to the upper-case lookup and takes none away (R85). -/
theorem lookupBase16_eq_some_iff {low : Bool} {c : Byte} {v : Nat} :
    lookupBase16 low c = some v ↔ lookupBase16 false c = some v ∨ IsLowerHexValue low .base16 c v := by
  cases low with
  | false => simp [IsLowerHexValue]
  | true =>
    simp only [lookupBase16, IsLowerHexValue, Option.orElse_eq_orElse, Option.orElse_eq_or, Option.or_eq_some_iff,
      rangeValue_eq_some_iff, rangeValue_eq_none_iff, if_true, Bool.false_eq_true, if_false,
      reduceCtorEq, and_false, or_false, true_and]
    omega

/-- `Lookup` is the inverse of `Alpha`, with the one exception of the lower-case hexadecimal digits (R80). -/
theorem lookup_eq_some_iff {low : Bool} {sc : Scheme} {c : Byte} {v : Nat} :
    lookup low sc c = some v ↔ (v < radix sc ∧ alpha sc v = c) ∨ IsLowerHexValue low sc c v := by
  by_cases hsc : sc = .base16
  · subst hsc
    exact lookupBase16_eq_some_iff.trans (or_congr_left lookupBase16_false_eq_some_iff)
  rw [isLowerHexValue_iff_false hsc, or_false]
  cases sc with
  | base64 => exact lookupBase64_eq_some_iff (by decide) ⟨rfl, rfl, rfl⟩ ⟨rfl, rfl, rfl⟩
  | base64url => exact lookupBase64_eq_some_iff (by decide) ⟨rfl, rfl, rfl⟩ ⟨rfl, rfl, rfl⟩
  | base32 =>
    exact rangeValue_orElse_eq_some_iff_char (lo₁ := 0x41) (n₁ := 25) (lo₂ := 0x32) (n₂ := 5)
      (by decide) (by decide) (by decide)
  | base32hex =>
    exact rangeValue_orElse_eq_some_iff_char (lo₁ := 0x30) (n₁ := 9) (lo₂ := 0x41) (n₂ := 21)
      (by decide) (by decide) (by decide)
  | base16 => exact absurd rfl hsc
  | base2msbf => exact rangeValue_eq_some_iff_char (lo := 0x30) (n := 1) (by decide)
  | base2lsbf => exact rangeValue_eq_some_iff_char (lo := 0x30) (n := 1) (by decide)
  | z85 => exact lookupZ85_eq_some_iff

theorem lookup_alpha {low : Bool} {sc : Scheme} {v : Nat} (hv : v < radix sc) :
    lookup low sc (alpha sc v) = some v :=
  lookup_eq_some_iff.2 (.inl ⟨hv, rfl⟩)

theorem IsLowerHexValue.lt_radix {low : Bool} {sc : Scheme} {c : Byte} {v : Nat} (h : IsLowerHexValue low sc c v) :
    v < radix sc := by
  obtain ⟨rfl, -, hlo, hhi, rfl⟩ := h
  change c.toNat - 0x61 + 10 < 16
  omega

theorem lookup_lt_radix {low : Bool} {sc : Scheme} {c : Byte} {v : Nat} (h : lookup low sc c = some v) :
    v < radix sc :=
  (lookup_eq_some_iff.1 h).elim (·.1) (·.lt_radix)

/-- Every character of every alphabet is a visible ASCII character (R81 to R87). -/
theorem alpha_visible (sc : Scheme) : ∀ v < radix sc, 0x20 < (alpha sc v).toNat ∧ (alpha sc v).toNat < 0x7F := by
  cases sc <;> decide

/-- Only a visible ASCII character has a value, in any scheme. -/
theorem visible_of_lookup_eq_some {low : Bool} {sc : Scheme} {c : Byte} {v : Nat} (h : lookup low sc c = some v) :
    0x20 < c.toNat ∧ c.toNat < 0x7F := by
  obtain ⟨hv, rfl⟩ | ⟨-, -, hlo, hhi, -⟩ := lookup_eq_some_iff.1 h
  · exact alpha_visible sc v hv
  · omega

/-- Settles O37: the lookup of every scheme is the inverse of its alphabet, up to the lower-case hexadecimal digits,
and every alphabet lies within the visible ASCII characters. -/
theorem lookupInvertsAlphabet : Obligations.LookupInvertsAlphabet := by
  intro low sc
  refine ⟨fun v hv => lookup_alpha hv, fun c v h => ⟨lookup_lt_radix h, ?_⟩, fun c hc => ?_⟩
  · exact (lookup_eq_some_iff.1 h).imp_left (·.2)
  · refine Option.eq_none_iff_forall_ne_some.2 fun v h => ?_
    have hvis := visible_of_lookup_eq_some h
    omega

end Sys2Proof.Machine
end

section
/-! Block values and their bit fields (40_radix_encode.md R101, R103; 42_radix_decode.md R136, R137): the symbols of a
block and the bytes of a group are the bit fields of one number, most significant first. -/
namespace Sys2Proof.Machine

/-- The `n` fields of `k` bits at the low end of `v`, most significant first (R101). -/
def bitFields (k n v : Nat) : List Nat := (List.range n).map fun i => v / 2 ^ (k * (n - 1 - i)) % 2 ^ k

/-- The `n` low bytes of `v`, most significant first (R136). -/
def bigEndianBytes (n v : Nat) : List Byte := (List.range n).map fun i => BitVec.ofNat 8 (v / 2 ^ (8 * (n - 1 - i)))

/-- Field `i` of `n + 1` fields of `v` starts where field `i` of the `n` fields of `v / 2 ^ k` does. -/
theorem div_two_pow_field_succ {k n i : Nat} (v : Nat) (hi : i < n) :
    v / 2 ^ (k * (n + 1 - 1 - i)) = v / 2 ^ k / 2 ^ (k * (n - 1 - i)) := by
  rw [Nat.div_div_eq_div_mul, ← pow_add, show n + 1 - 1 - i = n - 1 - i + 1 by omega, Nat.mul_succ, Nat.add_comm]

theorem bitFields_succ (k n v : Nat) : bitFields k (n + 1) v = bitFields k n (v / 2 ^ k) ++ [v % 2 ^ k] := by
  rw [bitFields, List.range_succ, List.map_append]
  congr 1
  · refine List.map_congr_left fun i hi => ?_
    rw [div_two_pow_field_succ v (List.mem_range.1 hi)]
  · simp

theorem bigEndianBytes_succ (n v : Nat) :
    bigEndianBytes (n + 1) v = bigEndianBytes n (v / 256) ++ [BitVec.ofNat 8 v] := by
  rw [bigEndianBytes, List.range_succ, List.map_append]
  congr 1
  · refine List.map_congr_left fun i hi => ?_
    rw [div_two_pow_field_succ v (List.mem_range.1 hi)]
    rfl
  · simp

@[simp] theorem bitFields_length (k n v : Nat) : (bitFields k n v).length = n := by simp [bitFields]

theorem bitFields_lt {k n v x : Nat} (h : x ∈ bitFields k n v) : x < 2 ^ k := by
  obtain ⟨i, -, rfl⟩ := List.mem_map.1 h
  exact Nat.mod_lt _ (by positivity)

/-- The first fields of a number are the fields of its upper part. -/
theorem take_bitFields {k n m : Nat} (v : Nat) (h : m ≤ n) :
    (bitFields k n v).take m = bitFields k m (v / 2 ^ (k * (n - m))) := by
  rw [bitFields, ← List.map_take, List.take_range, min_eq_left h]
  refine List.map_congr_left fun i hi => ?_
  have hi := List.mem_range.1 hi
  rw [Nat.div_div_eq_div_mul, ← pow_add, ← Nat.mul_add, show n - m + (m - 1 - i) = n - 1 - i by omega]

theorem symbolsValue_concat (k : Nat) (grp : List Nat) (x : Nat) :
    symbolsValue k (grp ++ [x]) = symbolsValue k grp * 2 ^ k + x := by
  simp [symbolsValue]

/-- The fields of a number spell it again, up to the bits above the top field. -/
theorem symbolsValue_bitFields (k n v : Nat) : symbolsValue k (bitFields k n v) = v % 2 ^ (k * n) := by
  induction n generalizing v with
  | zero => simp [bitFields, symbolsValue, Nat.mod_one]
  | succ n ih =>
    rw [bitFields_succ, symbolsValue_concat, ih, Nat.mul_succ, Nat.add_comm (k * n), pow_add, Nat.mod_mul]
    ring

theorem bytesValue_concat (bs : List Byte) (b : Byte) : bytesValue (bs ++ [b]) = bytesValue bs * 256 + b.toNat := by
  simp [bytesValue]

theorem bytesValue_lt (bs : List Byte) : bytesValue bs < 2 ^ (8 * bs.length) := by
  induction bs using List.reverseRecOn with
  | nil => simp [bytesValue]
  | append_singleton bs b ih =>
    rw [bytesValue_concat, List.length_append, List.length_singleton, Nat.mul_add, pow_add]
    omega

theorem bytesValue_append (as bs : List Byte) :
    bytesValue (as ++ bs) = bytesValue as * 2 ^ (8 * bs.length) + bytesValue bs := by
  induction bs using List.reverseRecOn with
  | nil => simp [bytesValue]
  | append_singleton bs b ih =>
    rw [← List.append_assoc, bytesValue_concat, ih, bytesValue_concat, List.length_append, List.length_singleton,
      Nat.mul_add, pow_add]
    ring

theorem bytesValue_replicate_zero (n : Nat) : bytesValue (List.replicate n 0#8) = 0 := by
  induction n with
  | zero => rfl
  | succ n ih => rw [List.replicate_succ', bytesValue_concat, ih]; rfl

/-- A block's value is the sum of its bytes at their places (R101). -/
theorem bytesValue_eq_sum (bs : List Byte) :
    bytesValue bs =
      ((List.range bs.length).map fun i => (bs.getD i 0).toNat * 2 ^ (8 * (bs.length - 1 - i))).sum := by
  induction bs with
  | nil => rfl
  | cons b bs ih =>
    rw [← List.singleton_append, bytesValue_append, ih]
    simp [List.range_succ_eq_map, Function.comp_def, bytesValue, Nat.sub_sub, Nat.add_comm 1]

/-- The bytes of a block are found again in its value. -/
theorem bigEndianBytes_bytesValue (bs : List Byte) : bigEndianBytes bs.length (bytesValue bs) = bs := by
  induction bs using List.reverseRecOn with
  | nil => rfl
  | append_singleton bs b ih =>
    have hdiv : (bytesValue bs * 256 + b.toNat) / 256 = bytesValue bs := by omega
    have hlow : BitVec.ofNat 8 (bytesValue bs * 256 + b.toNat) = b := by
      apply BitVec.eq_of_toNat_eq; rw [BitVec.toNat_ofNat]; omega
    rw [bytesValue_concat, List.length_append, List.length_singleton, bigEndianBytes_succ, hdiv, hlow, ih]

/-- Bit `i` of a number first: the fields of base2lsbf (R102) spell the number again. -/
theorem lsbValue_bits (n v : Nat) : lsbValue ((List.range n).map fun i => v / 2 ^ i % 2) = v % 2 ^ n := by
  induction n generalizing v with
  | zero => simp [lsbValue, Nat.mod_one]
  | succ n ih =>
    have htail : (List.range n).map (fun i => v / 2 ^ (i + 1) % 2) = (List.range n).map fun i => v / 2 / 2 ^ i % 2 := by
      simp only [Nat.div_div_eq_div_mul, ← pow_succ']
    simp only [List.range_succ_eq_map, List.map_cons, List.map_map, Function.comp_def, lsbValue, Nat.succ_eq_add_one,
      pow_zero, Nat.div_one]
    rw [htail, ih, pow_succ', Nat.mod_mul]

end Sys2Proof.Machine
end

section
/-! One block packed and unpacked (40_radix_encode.md R101 to R103; 42_radix_decode.md R136, R137). -/
namespace Sys2Proof.Machine

section Block
variable {sc : Scheme} {blk : List Byte}

theorem symbolBits_bounds (h : sc ≠ .z85) : 0 < symbolBits sc ∧ symbolBits sc ≤ 8 := by
  cases sc with
  | z85 => exact absurd rfl h
  | _ => decide

theorem radix_eq_two_pow (h : sc ≠ .z85) : radix sc = 2 ^ symbolBits sc := by
  cases sc with
  | z85 => exact absurd rfl h
  | _ => rfl

/-- The symbols of an MSB-first block are the bit fields of its value (R101). -/
theorem blockSymbols_eq_bitFields (hl : sc ≠ .base2lsbf) :
    blockSymbols sc blk = bitFields (symbolBits sc) (groupSymbols sc) (bytesValue blk) := by
  cases sc with
  | base2lsbf => exact absurd rfl hl
  | _ => rfl

@[simp] theorem blockSymbols_length (sc : Scheme) (blk : List Byte) :
    (blockSymbols sc blk).length = groupSymbols sc := by
  by_cases hl : sc = .base2lsbf
  · subst hl; rfl
  · rw [blockSymbols_eq_bitFields hl, bitFields_length]

theorem blockSymbols_lt_radix (hz : sc ≠ .z85) : ∀ v ∈ blockSymbols sc blk, v < radix sc := by
  intro v hv
  by_cases hl : sc = .base2lsbf
  · subst hl
    obtain ⟨i, -, rfl⟩ := List.mem_map.1 hv
    exact Nat.mod_lt _ (by decide)
  · rw [blockSymbols_eq_bitFields hl] at hv
    exact radix_eq_two_pow hz ▸ bitFields_lt hv

theorem unpackGroup_eq_bigEndianBytes (hl : sc ≠ .base2lsbf) (hz : sc ≠ .z85) (grp : List Nat) :
    unpackGroup sc grp = bigEndianBytes (blockBytes sc) (symbolsValue (symbolBits sc) grp) := by
  cases sc with
  | base2lsbf => exact absurd rfl hl
  | z85 => exact absurd rfl hz
  | _ => rfl

/-- A full block unpacks to itself (R101, R102, R136). -/
theorem unpackGroup_blockSymbols (hz : sc ≠ .z85) (hb : blk.length = blockBytes sc) :
    unpackGroup sc (blockSymbols sc blk) = blk := by
  by_cases hl : sc = .base2lsbf
  · subst hl
    obtain ⟨b, rfl⟩ := List.length_eq_one_iff.1 hb
    change [BitVec.ofNat 8 (lsbValue ((List.range 8).map fun i => bytesValue [b] / 2 ^ i % 2))] = [b]
    have hlow : b.toNat % 256 = b.toNat := Nat.mod_eq_of_lt b.isLt
    simp [lsbValue_bits, bytesValue, hlow]
  · have hv : bytesValue blk < 2 ^ (symbolBits sc * groupSymbols sc) := by
      rw [Nat.mul_comm, groupSymbols_mul_symbolBits sc hz, ← hb]
      exact bytesValue_lt blk
    rw [unpackGroup_eq_bigEndianBytes hl hz, blockSymbols_eq_bitFields hl, symbolsValue_bitFields, Nat.mod_eq_of_lt hv,
      ← hb, bigEndianBytes_bytesValue]

/-- A partial group unpacks to the whole bytes at the top of its value (R137). -/
theorem unpackPartial_eq_bigEndianBytes (sc : Scheme) (grp : List Nat) :
    unpackPartial sc grp = bigEndianBytes (grp.length * symbolBits sc / 8)
      (symbolsValue (symbolBits sc) grp / 2 ^ (grp.length * symbolBits sc % 8)) := by
  refine List.map_congr_left fun i hi => ?_
  have hi := List.mem_range.1 hi
  rw [Nat.div_div_eq_div_mul, ← pow_add]
  congr 3
  omega

/-- The data symbols of `r` bytes hold their `8 * r` bits and less than one symbol more (R103). -/
theorem dataSymbols_mul_symbolBits (hz : sc ≠ .z85) (r : Nat) :
    8 * r ≤ dataSymbols sc r * symbolBits sc ∧ dataSymbols sc r * symbolBits sc < 8 * r + symbolBits sc := by
  have hk := (symbolBits_bounds hz).1
  have hle := Nat.div_mul_le_self (8 * r + symbolBits sc - 1) (symbolBits sc)
  have hlt := Nat.lt_div_mul_add (a := 8 * r + symbolBits sc - 1) hk
  rw [dataSymbols]
  omega

/-- A partial block leaves at least one symbol of its group to the padding (R103). -/
theorem dataSymbols_lt_groupSymbols (hz : sc ≠ .z85) {r : Nat} (hr : r < blockBytes sc) :
    dataSymbols sc r < groupSymbols sc := by
  have hk := symbolBits_bounds hz
  have hdata := dataSymbols_mul_symbolBits hz r
  have hgroup := groupSymbols_mul_symbolBits sc hz
  exact Nat.lt_of_mul_lt_mul_right (a := symbolBits sc) (by omega)

/-- The block value of a block filled with zero bytes (R103). -/
theorem bytesValue_append_zeros (blk : List Byte) (n : Nat) :
    bytesValue (blk ++ List.replicate n 0#8) = bytesValue blk * 2 ^ (8 * n) := by
  rw [bytesValue_append, bytesValue_replicate_zero, List.length_replicate, Nat.add_zero]

/-- The symbol values of a partial block that carry data (R103). -/
def partialSymbols (sc : Scheme) (blk : List Byte) : List Nat :=
  (blockSymbols sc (blk ++ List.replicate (blockBytes sc - blk.length) 0#8)).take (dataSymbols sc blk.length)

theorem packPartial_eq (sc : Scheme) (blk : List Byte) :
    packPartial sc blk = (partialSymbols sc blk).map (alpha sc) ++
      List.replicate (groupSymbols sc - dataSymbols sc blk.length) padByte := rfl

theorem partialSymbols_lt_radix (hz : sc ≠ .z85) : ∀ v ∈ partialSymbols sc blk, v < radix sc :=
  fun v hv => blockSymbols_lt_radix hz v (List.mem_of_mem_take hv)

theorem partialSymbols_length (hz : sc ≠ .z85) (hb : blk.length < blockBytes sc) :
    (partialSymbols sc blk).length = dataSymbols sc blk.length := by
  rw [partialSymbols, List.length_take, blockSymbols_length, min_eq_left (dataSymbols_lt_groupSymbols hz hb).le]

/-- The value of a partial block's data symbols is the block's value, moved up by the zero bits below it. -/
theorem symbolsValue_partialSymbols (hl : sc ≠ .base2lsbf) (hz : sc ≠ .z85) (hb : blk.length < blockBytes sc) :
    symbolsValue (symbolBits sc) (partialSymbols sc blk) =
      bytesValue blk * 2 ^ (dataSymbols sc blk.length * symbolBits sc - 8 * blk.length) := by
  have hdata := (dataSymbols_mul_symbolBits hz blk.length).1
  have hgroup := groupSymbols_mul_symbolBits sc hz
  have hle : dataSymbols sc blk.length ≤ groupSymbols sc := (dataSymbols_lt_groupSymbols hz hb).le
  have hshift : 8 * (blockBytes sc - blk.length) = dataSymbols sc blk.length * symbolBits sc - 8 * blk.length +
      symbolBits sc * (groupSymbols sc - dataSymbols sc blk.length) := by
    have hmul := Nat.mul_le_mul_right (symbolBits sc) hle
    rw [Nat.mul_comm (symbolBits sc), Nat.sub_mul]
    omega
  have hlt : bytesValue blk * 2 ^ (dataSymbols sc blk.length * symbolBits sc - 8 * blk.length) <
      2 ^ (symbolBits sc * dataSymbols sc blk.length) := by
    calc bytesValue blk * 2 ^ (dataSymbols sc blk.length * symbolBits sc - 8 * blk.length)
      _ < 2 ^ (8 * blk.length) * 2 ^ (dataSymbols sc blk.length * symbolBits sc - 8 * blk.length) :=
        Nat.mul_lt_mul_of_pos_right (bytesValue_lt blk) (by positivity)
      _ = 2 ^ (symbolBits sc * dataSymbols sc blk.length) := by
        rw [← pow_add, Nat.add_sub_cancel' hdata, Nat.mul_comm]
  rw [partialSymbols, blockSymbols_eq_bitFields hl, take_bitFields _ hle, bytesValue_append_zeros,
    symbolsValue_bitFields, hshift, pow_add, ← Nat.mul_assoc, Nat.mul_div_cancel _ (by positivity),
    Nat.mod_eq_of_lt hlt]

/-- A partial block unpacks to itself (R103, R137). -/
theorem unpackPartial_partialSymbols (hl : sc ≠ .base2lsbf) (hz : sc ≠ .z85) (hb : blk.length < blockBytes sc) :
    unpackPartial sc (partialSymbols sc blk) = blk := by
  have hk := symbolBits_bounds hz
  have hdata := dataSymbols_mul_symbolBits hz blk.length
  have hbytes : dataSymbols sc blk.length * symbolBits sc / 8 = blk.length := by omega
  have hspare : dataSymbols sc blk.length * symbolBits sc % 8 =
    dataSymbols sc blk.length * symbolBits sc - 8 * blk.length := by omega
  rw [unpackPartial_eq_bigEndianBytes, partialSymbols_length hz hb, hbytes, hspare,
    symbolsValue_partialSymbols hl hz hb, Nat.mul_div_cancel _ (by positivity), bigEndianBytes_bytesValue]

end Block

/-- Settles O29: the symbols of an MSB-first block are `bitFields`, and a bit field cut by division is the one
`extractLsb'` cuts. -/
theorem fullBlockSymbolsAreBitFields : Obligations.FullBlockSymbolsAreBitFields := by
  intro sc blk hl hz hb
  refine ⟨hb ▸ bytesValue_eq_sum blk, by simp [packFull], fun i hi => ?_⟩
  have hv : bytesValue blk < 2 ^ (8 * blockBytes sc) := hb ▸ bytesValue_lt blk
  have hstart : symbolBits sc * (groupSymbols sc - 1 - i) = 8 * blockBytes sc - symbolBits sc * (i + 1) := by
    rw [← groupSymbols_mul_symbolBits sc hz, Nat.mul_comm (groupSymbols sc), ← Nat.mul_sub, Nat.sub_sub, Nat.add_comm 1]
  rw [packFull, blockSymbols_eq_bitFields hl]
  simp [bitFields, hi, hstart, Nat.mod_eq_of_lt hv, Nat.shiftRight_eq_div_pow]

end Sys2Proof.Machine
end

section
/-! The text a decoder reads: what a scan makes of newlines, padding and the characters of a symbol list
(42_radix_decode.md R130 to R134), and of a wrapped text (45_line_wrapper.md R206). -/
namespace Sys2Proof.Machine
variable {low g : Bool} {sc : Scheme} {grp : List Nat}

theorem lookup_padByte (h : sc ≠ .z85) : lookup low sc padByte = none := by
  cases sc with
  | z85 => exact absurd rfl h
  | _ => cases low <;> rfl

/-- A byte with a symbol value is of class SYM: no newline has a value, and `=` has one in Z85 only (R90, R91). -/
theorem classify_of_lookup {c : Byte} {v : Nat} (h : lookup low sc c = some v) : classify low sc c = .sym v := by
  have hvis := visible_of_lookup_eq_some h
  have hnl : ¬ (c = newlineByte ∨ c = carriageReturnByte) := by
    rintro (rfl | rfl) <;> exact absurd hvis (by decide)
  have hpad : ¬ (sc ≠ .z85 ∧ c = padByte) := by
    rintro ⟨hz, rfl⟩
    rw [lookup_padByte hz] at h
    contradiction
  rw [classify, if_neg hnl, if_neg hpad, h]

theorem classify_alpha {v : Nat} (hv : v < radix sc) : classify low sc (alpha sc v) = .sym v :=
  classify_of_lookup (lookup_alpha hv)

@[simp] theorem classify_newlineByte (low : Bool) (sc : Scheme) : classify low sc newlineByte = .nl := rfl

theorem classify_padByte (h : sc ≠ .z85) : classify low sc padByte = .padch := by
  rw [classify, if_neg (by decide), if_pos ⟨h, rfl⟩]

/-- Characters that do not fill the group in progress join it. -/
theorem scan_alpha_short {vs : List Nat} (hv : ∀ v ∈ vs, v < radix sc) (hl : grp.length + vs.length < groupSymbols sc)
    (text : List Byte) : scan low sc g grp (vs.map (alpha sc) ++ text) = scan low sc g (grp ++ vs) text := by
  induction vs generalizing grp with
  | nil => simp
  | cons v vs ih =>
    rw [List.length_cons] at hl
    rw [List.map_cons, List.cons_append, scan_sym (classify_alpha (hv v (by simp))) (by omega),
      ih (fun u hu => hv u (by simp [hu])) (by simp; omega), List.append_assoc, List.singleton_append]

/-- The characters of a whole group unpack as that group. -/
theorem scan_alpha_group {vs : List Nat} (hv : ∀ v ∈ vs, v < radix sc) (hl : vs.length = groupSymbols sc)
    (text : List Byte) : scan low sc g [] (vs.map (alpha sc) ++ text) =
      (scan low sc g [] text).map fun r => (r.1, unpackGroup sc vs ++ r.2) := by
  cases vs using List.reverseRecOn with
  | nil => have := groupSymbols_bounds sc; simp at hl; omega
  | append_singleton us u _ =>
    rw [List.length_append, List.length_singleton] at hl
    rw [List.map_append, List.append_assoc, scan_alpha_short (fun v h => hv v (by simp [h])) (by simp; omega)]
    exact scan_group (classify_alpha (hv u (by simp))) hl

theorem scan_padding (h : sc ≠ .z85) (n : Nat) : scan low sc g grp (List.replicate n padByte) = .ok (grp, []) := by
  induction n with
  | zero => rfl
  | succ n ih => rw [List.replicate_succ, scan_skip (.inr (.inl (classify_padByte h))), ih]

/-- Newlines may be taken out of a text before it is scanned (R131). -/
theorem scan_filter_newlines (text : List Byte) :
    scan low sc g grp (text.filter (· != newlineByte)) = scan low sc g grp text := by
  induction text generalizing grp with
  | nil => rfl
  | cons c cs ih =>
    by_cases hc : c = newlineByte
    · subst hc
      rw [List.filter_cons_of_neg (by simp), scan_skip (.inl (classify_newlineByte low sc)), ih]
    · rw [List.filter_cons_of_pos (by simpa using hc)]
      simp only [scan, ih]

/-- Consecutive pieces of length `w` join to the part of the list they cover (20_memory.md R57). -/
theorem flatMap_pieces (w n : Nat) (l : List Byte) :
    (List.range n).flatMap (fun j => (l.drop (j * w)).take w) = l.take (n * w) := by
  induction n with
  | zero => simp
  | succ n ih => rw [List.range_succ, List.flatMap_append, ih, Nat.succ_mul, List.take_add]; simp

/-- The line wrapper adds newlines and nothing else (R206). -/
theorem filter_wrapText (w : Nat) (syms : List Byte) :
    (wrapText w syms).filter (· != newlineByte) = syms.filter (· != newlineByte) := by
  by_cases hw : w = 0
  · rw [wrapText, if_pos hw]
  · have hcover : syms.length ≤ (syms.length + w - 1) / w * w := by
      have := Nat.lt_div_mul_add (a := syms.length + w - 1) (Nat.pos_of_ne_zero hw)
      omega
    conv_rhs => rw [← List.take_of_length_le hcover, ← flatMap_pieces]
    rw [wrapText, if_neg hw]
    simp [List.filter_flatMap]

/-- Wrapping, at any width, does not change what a text decodes to (R131). -/
theorem decodeText_wrapText (w : Nat) (syms : List Byte) :
    decodeText low sc g (wrapText w syms) = decodeText low sc g syms := by
  rw [decodeText, ← scan_filter_newlines, filter_wrapText, scan_filter_newlines, decodeText]

end Sys2Proof.Machine
end

section
/-! The round trip of the radix schemes (40_radix_encode.md R112). -/
namespace Sys2Proof.Machine

section RoundTrip
variable {low g : Bool} {sc : Scheme}

/-- A run of packed full blocks scans to the blocks' own bytes. -/
theorem scan_packFull (hz : sc ≠ .z85) {blks : List (List Byte)} (hb : ∀ blk ∈ blks, blk.length = blockBytes sc)
    (text : List Byte) : scan low sc g [] (blks.flatMap (packFull sc) ++ text) =
      (scan low sc g [] text).map fun r => (r.1, blks.flatten ++ r.2) := by
  induction blks with
  | nil => cases h : scan low sc g [] text <;> simp [h, Except.map]
  | cons blk blks ih =>
    rw [List.flatMap_cons, List.append_assoc, packFull,
      scan_alpha_group (blockSymbols_lt_radix hz) (blockSymbols_length sc blk),
      ih fun b h => hb b (by simp [h]), unpackGroup_blockSymbols hz (hb blk (by simp))]
    cases scan low sc g [] text <;> simp [Except.map]

/-- A packed partial block leaves its data symbols as the group at the end of the input. -/
theorem scan_packPartial (hz : sc ≠ .z85) {blk : List Byte} (hb : blk.length < blockBytes sc) :
    scan low sc g [] (packPartial sc blk) = .ok (partialSymbols sc blk, []) := by
  have hlen : (partialSymbols sc blk).length < groupSymbols sc :=
    partialSymbols_length hz hb ▸ dataSymbols_lt_groupSymbols hz hb
  rw [packPartial_eq, scan_alpha_short (partialSymbols_lt_radix hz) (by simpa using hlen), List.nil_append,
    scan_padding hz]

/-- The end rule of the schemes with partial blocks: a group's whole bytes, none for an empty one (R137, R139). -/
theorem finishGroup_eq_unpackPartial (hz : sc ≠ .z85) (hb : 1 < blockBytes sc) (grp : List Nat) :
    finishGroup sc grp = .ok (unpackPartial sc grp) := by
  unfold finishGroup
  split
  · next h => subst h; simp [unpackPartial]
  · cases sc with
    | base64 | base64url | base32 | base32hex => rfl
    | base16 | base2msbf | base2lsbf => exact absurd hb (by decide)
    | z85 => exact absurd rfl hz

/-- The whole sub-blocks of an input (R100). -/
def wholeBlocks (sc : Scheme) (data : List Byte) : List (List Byte) :=
  (List.range (data.length / blockBytes sc)).map fun j => subBlock (blockBytes sc) j data

/-- The bytes after the last whole sub-block (R100). -/
def lastBlock (sc : Scheme) (data : List Byte) : List Byte :=
  data.drop (data.length / blockBytes sc * blockBytes sc)

theorem encRadix_eq (sc : Scheme) (data : List Byte) :
    encRadix sc data = (wholeBlocks sc data).flatMap (packFull sc) ++
      if 0 < data.length % blockBytes sc then packPartial sc (lastBlock sc data) else [] := by
  rw [wholeBlocks, List.flatMap_map]
  rfl

theorem length_of_mem_wholeBlocks {data blk : List Byte} (h : blk ∈ wholeBlocks sc data) :
    blk.length = blockBytes sc := by
  obtain ⟨j, hj, rfl⟩ := List.mem_map.1 h
  have hj := List.mem_range.1 hj
  have hend : (j + 1) * blockBytes sc ≤ data.length :=
    (Nat.mul_le_mul_right _ hj).trans (Nat.div_mul_le_self _ _)
  rw [Nat.succ_mul] at hend
  rw [subBlock, List.length_take, List.length_drop]
  omega

theorem lastBlock_length (sc : Scheme) (data : List Byte) :
    (lastBlock sc data).length = data.length % blockBytes sc := by
  rw [lastBlock, List.length_drop, Nat.mod_eq_sub_div_mul]

theorem wholeBlocks_flatten_append_lastBlock (sc : Scheme) (data : List Byte) :
    (wholeBlocks sc data).flatten ++ lastBlock sc data = data := by
  have hwhole : (wholeBlocks sc data).flatten = data.take (data.length / blockBytes sc * blockBytes sc) := by
    rw [wholeBlocks, ← List.flatMap_def]
    exact flatMap_pieces _ _ data
  rw [hwhole, lastBlock, List.take_append_drop]

/-- The encoding of an input, unwrapped, decodes to the input. -/
theorem decodeText_encRadix (hz : sc ≠ .z85) (data : List Byte) :
    decodeText low sc g (encRadix sc data) = .ok data := by
  have hsplit := wholeBlocks_flatten_append_lastBlock sc data
  have hlast := lastBlock_length sc data
  rw [decodeText, encRadix_eq, scan_packFull hz fun blk h => length_of_mem_wholeBlocks h]
  by_cases hr : 0 < data.length % blockBytes sc
  · have hshort : (lastBlock sc data).length < blockBytes sc := hlast ▸ Nat.mod_lt _ (blockBytes_pos sc)
    have hl : sc ≠ .base2lsbf := by rintro rfl; simp [Nat.mod_one] at hr
    rw [if_pos hr, scan_packPartial hz hshort]
    simp [Except.map, finishGroup_eq_unpackPartial hz (by omega), unpackPartial_partialSymbols hl hz hshort, hsplit]
  · have hnil : lastBlock sc data = [] := List.eq_nil_of_length_eq_zero (by omega)
    rw [hnil, List.append_nil] at hsplit
    rw [if_neg hr]
    simp [Except.map, scan, finishGroup, hsplit]

end RoundTrip

/-- Settles O35: the wrapper's newlines drop out of the scan, and the encoding decodes block by block, the partial block
by the end rule. -/
theorem radixRoundTrip : Obligations.RadixRoundTrip := by
  intro low g sc w data hz
  rw [decodeText_wrapText, decodeText_encRadix hz]

end Sys2Proof.Machine
end

section
/-! Z85 encoding and its inverse (41_z85_encode.md R120 to R126; 43_z85_decode.md R158): a group's five digits spell its
value, the accumulator finds the value again, and its bytes are the group. -/
namespace Sys2Proof.Machine

section Digits
variable {v : Nat} {blk : List Byte}

/-- The integer whose base-85 digits are the symbol values, first most significant (43_z85_decode.md R158, before the
reduction to 32 bits). -/
def z85Value (digits : List Nat) : Nat := digits.foldl (fun v d => v * 85 + d) 0

theorem z85Value_concat (digits : List Nat) (d : Nat) : z85Value (digits ++ [d]) = z85Value digits * 85 + d := by
  simp [z85Value]

/-- The accumulator holds the digits' value modulo 2^32 (R158, R159). -/
theorem z85Accumulate_toNat (digits : List Nat) : (z85Accumulate digits).toNat = z85Value digits % 2 ^ 32 := by
  induction digits using List.reverseRecOn with
  | nil => rfl
  | append_singleton digits d ih =>
    have hstep : z85Accumulate (digits ++ [d]) = z85Accumulate digits * 85#32 + BitVec.ofNat 32 d := by
      simp [z85Accumulate]
    rw [hstep, z85Value_concat, BitVec.toNat_add, BitVec.toNat_mul, ih]
    simp [Nat.add_mod, Nat.mul_mod]

/-- The bytes of a Z85 group are those of the accumulator, most significant first (R158). -/
theorem unpack5_eq_bigEndianBytes (digits : List Nat) :
    unpack5 digits = bigEndianBytes 4 (z85Accumulate digits).toNat := by
  simp [unpack5, bigEndianBytes, List.range_succ, BitVec.extractLsb', Nat.shiftRight_eq_div_pow]

@[simp] theorem z85Digits_length (v : Nat) : (z85Digits v).length = 5 := rfl

theorem z85Digits_lt_radix : ∀ d ∈ z85Digits v, d < radix .z85 := by
  intro d hd
  obtain ⟨i, -, rfl⟩ := List.mem_map.1 hd
  exact Nat.mod_lt _ (by decide)

/-- The five digits of a number spell it again (R121). -/
theorem z85Value_z85Digits (hv : v < 85 ^ 5) : z85Value (z85Digits v) = v := by
  change ((((0 * 85 + v / 85 ^ 4 % 85) * 85 + v / 85 ^ 3 % 85) * 85 + v / 85 ^ 2 % 85) * 85 + v / 85 ^ 1 % 85) * 85 +
    v / 85 ^ 0 % 85 = v
  omega

/-- A four-byte group unpacks to itself: its value is below 2^32, so the accumulator loses nothing (R121, R158). -/
theorem unpackGroup_z85Digits (hb : blk.length = 4) : unpackGroup .z85 (z85Digits (bytesValue blk)) = blk := by
  have hv : bytesValue blk < 2 ^ 32 := by simpa [hb] using bytesValue_lt blk
  calc unpackGroup .z85 (z85Digits (bytesValue blk))
    _ = bigEndianBytes 4 (z85Accumulate (z85Digits (bytesValue blk))).toNat := unpack5_eq_bigEndianBytes _
    _ = bigEndianBytes blk.length (bytesValue blk) := by
      rw [z85Accumulate_toNat, z85Value_z85Digits (hv.trans (by decide)), Nat.mod_eq_of_lt hv, hb]
    _ = blk := bigEndianBytes_bytesValue blk

end Digits

@[simp] theorem packZ85_length (blk : List Byte) : (packZ85 blk).length = 5 := rfl

/-- The characters of a packed group are those of its digits (R121). -/
theorem packZ85_eq (blk : List Byte) : packZ85 blk = (z85Digits (bytesValue blk)).map (alpha .z85) := rfl

section Aligned
variable {data : List Byte}

theorem encZ85_of_misaligned (h : data.length % 4 ≠ 0) : encZ85 data = .error .misalignedLength := if_pos h

/-- An aligned input is encoded group by group (R121). -/
theorem encZ85_of_aligned (h : data.length % 4 = 0) : encZ85 data = .ok ((wholeBlocks .z85 data).flatMap packZ85) := by
  rw [wholeBlocks, List.flatMap_map]
  exact if_neg (not_not_intro h)

/-- An aligned input is its groups, with nothing after the last (R120). -/
theorem wholeBlocks_z85_flatten (h : data.length % 4 = 0) : (wholeBlocks .z85 data).flatten = data := by
  have hlast : lastBlock .z85 data = [] := List.eq_nil_of_length_eq_zero ((lastBlock_length .z85 data).trans h)
  simpa [hlast] using wholeBlocks_flatten_append_lastBlock .z85 data

end Aligned

/-- A run of packed groups scans to the groups' own bytes and leaves no digit over. -/
theorem scan_packZ85 {low g : Bool} {blks : List (List Byte)} (hb : ∀ blk ∈ blks, blk.length = blockBytes .z85) :
    scan low .z85 g [] (blks.flatMap packZ85) = .ok ([], blks.flatten) := by
  induction blks with
  | nil => rfl
  | cons blk blks ih =>
    rw [List.flatMap_cons, packZ85_eq, scan_alpha_group z85Digits_lt_radix rfl, ih fun b h => hb b (by simp [h]),
      unpackGroup_z85Digits (hb blk (by simp))]
    rfl

/-- Settles O34: an aligned input is `data.length / 4` groups of five symbols each. -/
theorem z85EncodedLength : Obligations.Z85EncodedLength := by
  refine fun data => ⟨fun h => ⟨_, encZ85_of_aligned h, ?_⟩, encZ85_of_misaligned⟩
  have hlen : ((wholeBlocks .z85 data).flatMap packZ85).length = data.length / 4 * 5 := by
    simp [wholeBlocks, List.length_flatMap, Function.comp_def]
  omega

/-- Settles O36: the wrapper's newlines drop out of the scan, and an aligned input is its groups, each of which decodes
to itself. -/
theorem z85RoundTrip : Obligations.Z85RoundTrip := by
  refine fun low g w data h => ⟨_, encZ85_of_aligned h, ?_⟩
  rw [decodeText_wrapText, decodeText, scan_packZ85 fun _ hblk => length_of_mem_wholeBlocks hblk,
    wholeBlocks_z85_flatten h]
  simp [finishGroup]

end Sys2Proof.Machine
end

section
/-! The result of decoding a whole text (42_radix_decode.md R130 to R138; 43_z85_decode.md R156, R157): a scan cuts the
valid symbols into groups, and the end rule judges the symbols after the last full one. -/
namespace Sys2Proof.Machine
variable {low g : Bool} {sc : Scheme} {grp syms : List Nat} {text : List Byte} {c : Byte}

/-! A symbol sequence in groups. -/

theorem groupSymbols_pos (sc : Scheme) : 0 < groupSymbols sc := Nat.zero_lt_two.trans_le (groupSymbols_bounds sc).1

theorem leftover_length (sc : Scheme) (syms : List Nat) :
    (leftover sc syms).length = syms.length % groupSymbols sc := by
  rw [leftover, List.length_drop, Nat.mod_eq_sub_div_mul]

theorem leftover_ne_nil_iff : leftover sc syms ≠ [] ↔ syms.length % groupSymbols sc ≠ 0 := by
  rw [← leftover_length, Ne, ← List.length_eq_zero_iff]

theorem leftover_of_short (h : syms.length < groupSymbols sc) : leftover sc syms = syms := by
  simp [leftover, Nat.div_eq_of_lt h]

theorem fullGroups_of_short (h : syms.length < groupSymbols sc) : fullGroups sc syms = [] := by
  simp [fullGroups, Nat.div_eq_of_lt h]

/-- A sequence behind one full group has one full group more. -/
theorem length_group_append_div (h : grp.length = groupSymbols sc) (syms : List Nat) :
    (grp ++ syms).length / groupSymbols sc = syms.length / groupSymbols sc + 1 := by
  rw [List.length_append, h, Nat.add_div_left _ (groupSymbols_pos sc)]

theorem drop_group_append (h : grp.length = groupSymbols sc) (j : Nat) :
    (grp ++ syms).drop ((j + 1) * groupSymbols sc) = syms.drop (j * groupSymbols sc) := by
  rw [Nat.succ_mul, Nat.add_comm, ← h, List.drop_length_add_append]

/-- A full group in front leaves the same symbols over. -/
theorem leftover_group_append (h : grp.length = groupSymbols sc) (syms : List Nat) :
    leftover sc (grp ++ syms) = leftover sc syms := by
  rw [leftover, length_group_append_div h, drop_group_append h, leftover]

/-- A full group in front is unpacked before the rest (R134). -/
theorem fullGroups_group_append (h : grp.length = groupSymbols sc) (syms : List Nat) :
    fullGroups sc (grp ++ syms) = unpackGroup sc grp ++ fullGroups sc syms := by
  rw [fullGroups, length_group_append_div h, List.range_succ_eq_map, List.flatMap_cons, List.flatMap_map]
  simp only [Nat.succ_eq_add_one, drop_group_append h]
  simp [fullGroups, ← h]

/-! The valid symbols and the invalid bytes of a text, byte by byte. -/

theorem symbolOf_of_sym {v : Nat} (h : classify low sc c = .sym v) : symbolOf low sc c = some v := by
  rw [symbolOf, h]

/-- Only a byte of class SYM has a symbol value (30_encoding.md R92). -/
theorem symbolOf_of_not_sym (h : classify low sc c = .nl ∨ classify low sc c = .padch ∨ classify low sc c = .inv) :
    symbolOf low sc c = none := by
  rcases h with h | h | h <;> rw [symbolOf, h]

/-- A byte has a symbol value exactly where it has a lookup value. -/
theorem symbolOf_eq_lookup (low : Bool) (sc : Scheme) (c : Byte) : symbolOf low sc c = lookup low sc c := by
  cases hl : lookup low sc c with
  | some v => exact symbolOf_of_sym (classify_of_lookup hl)
  | none =>
    cases hc : classify low sc c with
    | sym v => rw [classify_eq_sym hc] at hl; contradiction
    | nl | padch | inv => exact symbolOf_of_not_sym (by simp [hc])

/-- The characters of the base2 schemes are `0` and `1` (30_encoding.md R86). -/
theorem isSome_lookup_base2 (hs : sc = .base2msbf ∨ sc = .base2lsbf) :
    (lookup low sc c).isSome = (c == 0x30#8 || c == 0x31#8) := by
  have hlookup : lookup low sc c = rangeValue c 0x30 0x31 0 := by rcases hs with rfl | rfl <;> rfl
  rw [hlookup, Bool.eq_iff_iff]
  simp only [rangeValue, Option.isSome_ite, Bool.or_eq_true, beq_iff_eq]
  bv_omega

theorem validSymbols_append_cons_of_not_sym
    (h : classify low sc c = .nl ∨ classify low sc c = .padch ∨ classify low sc c = .inv) (a b : List Byte) :
    validSymbols low sc (a ++ c :: b) = validSymbols low sc (a ++ b) := by
  simp [validSymbols, List.filterMap_append, symbolOf_of_not_sym h]

theorem validSymbols_cons_of_not_sym
    (h : classify low sc c = .nl ∨ classify low sc c = .padch ∨ classify low sc c = .inv) (text : List Byte) :
    validSymbols low sc (c :: text) = validSymbols low sc text :=
  validSymbols_append_cons_of_not_sym h [] text

theorem validSymbols_cons_of_sym {v : Nat} (h : classify low sc c = .sym v) (text : List Byte) :
    validSymbols low sc (c :: text) = v :: validSymbols low sc text :=
  List.filterMap_cons_some (symbolOf_of_sym h)

theorem hasInvalid_append_cons (a b : List Byte) :
    hasInvalid low sc (a ++ c :: b) = (classify low sc c == .inv || hasInvalid low sc (a ++ b)) := by
  simp [hasInvalid, Bool.or_left_comm]

theorem hasInvalid_cons (text : List Byte) :
    hasInvalid low sc (c :: text) = (classify low sc c == .inv || hasInvalid low sc text) :=
  hasInvalid_append_cons [] text

/-- A base2 text has as many valid symbols as characters `0` and `1`. -/
theorem validSymbols_base2_length (hs : sc = .base2msbf ∨ sc = .base2lsbf) (text : List Byte) :
    (validSymbols low sc text).length = (text.filter fun c => c == 0x30#8 || c == 0x31#8).length := by
  rw [validSymbols, List.length_filterMap_eq_countP, List.countP_eq_length_filter]
  congr 2
  funext c
  rw [symbolOf_eq_lookup, isSome_lookup_base2 hs]

/-! The whole scan and the whole text. -/

/-- A scan that starts within a group ends at an invalid byte in strict mode, and otherwise cuts the symbols of that
group and of the text into groups (R130, R133, R134). -/
theorem scan_eq (text : List Byte) (hl : grp.length < groupSymbols sc) : scan low sc g grp text =
    if g = false ∧ hasInvalid low sc text = true then .error .invalidInputSymbol
    else .ok (leftover sc (grp ++ validSymbols low sc text), fullGroups sc (grp ++ validSymbols low sc text)) := by
  induction text generalizing grp with
  | nil => simp [scan, hasInvalid, validSymbols, leftover_of_short hl, fullGroups_of_short hl]
  | cons c cs ih =>
    rw [hasInvalid_cons]
    cases hc : classify low sc c with
    | nl => rw [scan_skip (.inl hc), ih hl, validSymbols_cons_of_not_sym (.inl hc)]; rfl
    | padch => rw [scan_skip (.inr (.inl hc)), ih hl, validSymbols_cons_of_not_sym (.inr (.inl hc))]; rfl
    | inv =>
      cases g with
      | true => rw [scan_skip (.inr (.inr ⟨hc, rfl⟩)), ih hl, validSymbols_cons_of_not_sym (.inr (.inr hc))]; simp
      | false => rw [scan_invalid hc]; simp
    | sym v =>
      rw [validSymbols_cons_of_sym hc, List.append_cons]
      by_cases hfull : grp.length + 1 = groupSymbols sc
      · have hgrp : (grp ++ [v]).length = groupSymbols sc := by simpa using hfull
        rw [scan_group hc hfull, ih (grp := []) (groupSymbols_pos sc), leftover_group_append hgrp,
          fullGroups_group_append hgrp, apply_ite (Except.map _)]
        rfl
      · rw [scan_sym hc hfull, ih (by simp; omega)]
        rfl

/-- The result of a whole text (R130, R156). -/
theorem decodeText_eq (low g : Bool) (sc : Scheme) (text : List Byte) : decodeText low sc g text =
    if g = false ∧ hasInvalid low sc text = true then .error .invalidInputSymbol
    else (finishGroup sc (leftover sc (validSymbols low sc text))).map
      (fullGroups sc (validSymbols low sc text) ++ ·) := by
  rw [decodeText, scan_eq text (grp := []) (groupSymbols_pos sc)]
  by_cases hbad : g = false ∧ hasInvalid low sc text = true
  · rw [if_pos hbad, if_pos hbad]
  · rw [if_neg hbad, if_neg hbad, List.nil_append]
    dsimp only
    cases finishGroup sc (leftover sc (validSymbols low sc text)) <;> rfl

theorem decodeText_of_invalid (h : hasInvalid low sc text = true) :
    decodeText low sc false text = .error .invalidInputSymbol := by
  rw [decodeText_eq, if_pos ⟨rfl, h⟩]

theorem decodeText_of_accepted (h : g = true ∨ hasInvalid low sc text = false) : decodeText low sc g text =
    (finishGroup sc (leftover sc (validSymbols low sc text))).map (fullGroups sc (validSymbols low sc text) ++ ·) := by
  rw [decodeText_eq, if_neg]
  rintro ⟨rfl, hinv⟩
  simp [hinv] at h

/-- A byte that is skipped may be taken out of a text wherever it stands (R131 to R133). -/
theorem decodeText_append_cons_skip
    (h : classify low sc c = .nl ∨ classify low sc c = .padch ∨ (classify low sc c = .inv ∧ g = true))
    (a b : List Byte) : decodeText low sc g (a ++ c :: b) = decodeText low sc g (a ++ b) := by
  have hsyms := validSymbols_append_cons_of_not_sym (h.imp_right (.imp_right And.left)) a b
  rw [decodeText_eq, decodeText_eq, hsyms, hasInvalid_append_cons]
  rcases h with h | h | ⟨h, rfl⟩ <;> simp [h]

/-! The end rule, scheme by scheme. -/

/-- Leftover symbols are an error in the schemes without partial groups (R138, R157). -/
theorem finishGroup_eq_misalignedLength (hs : sc = .base2msbf ∨ sc = .base2lsbf ∨ sc = .z85) (h : grp ≠ []) :
    finishGroup sc grp = .error .misalignedLength := by
  rcases hs with rfl | rfl | rfl <;> exact if_neg h

/-- A base16 digit without its partner is dropped (R139). -/
theorem finishGroup_base16 (grp : List Nat) : finishGroup .base16 grp = .ok [] := ite_self _

/-- Settles O41: a scan cuts the valid symbols into groups, and the end rule judges the leftover ones by the scheme. -/
theorem decodeIsGroupedValidSymbols : Obligations.DecodeIsGroupedValidSymbols := by
  intro low g sc text syms left
  refine ⟨fun ⟨hg, hinv⟩ => hg ▸ decodeText_of_invalid hinv, fun hacc => ?_⟩
  rw [decodeText_of_accepted hacc]
  refine ⟨fun hs => ?_, fun hl hs => ?_, fun hl hs => ?_⟩
  · have hend : finishGroup sc left = .ok [] := hs.elim (if_pos ·) fun h => h ▸ finishGroup_base16 left
    rw [hend]
    exact congrArg Except.ok (List.append_nil _)
  · rw [finishGroup_eq_misalignedLength hs hl]
    rfl
  · have hz : sc ≠ .z85 := by rintro rfl; simp at hs
    have hb : 1 < blockBytes sc := by rcases hs with rfl | rfl | rfl | rfl <;> decide
    rw [finishGroup_eq_unpackPartial hz hb]
    rfl

/-- Settles O42: a newline and a carriage return are of class NL, which a scan skips. -/
theorem newlinesAreSkippedAnywhere : Obligations.NewlinesAreSkippedAnywhere :=
  fun _ _ _ a b _ _ hc => decodeText_append_cons_skip (.inl (if_pos hc)) a b

/-- Settles O44: one invalid byte is enough to end a strict scan, and ignore-garbage mode skips it. -/
theorem invalidBytesEndOrAreSkipped : Obligations.InvalidBytesEndOrAreSkipped := by
  intro low sc a b c _ hc
  have hinv : hasInvalid low sc (a ++ c :: b) = true := by rw [hasInvalid_append_cons, hc]; rfl
  exact ⟨decodeText_of_invalid hinv, decodeText_append_cons_skip (.inr (.inr ⟨hc, rfl⟩)) a b⟩

/-- Settles O45: the leftover of the bits is empty exactly where their number is a multiple of the eight of a group. -/
theorem base2NeedsMultipleOfEight : Obligations.Base2NeedsMultipleOfEight := by
  refine fun low g sc text hs => ⟨fun hacc => ?_, fun hg hinv => hg ▸ decodeText_of_invalid hinv⟩
  have hgroup : groupSymbols sc = 8 := by rcases hs with rfl | rfl <;> rfl
  rw [← validSymbols_base2_length (low := low) hs, ← hgroup, ← leftover_ne_nil_iff, decodeText_of_accepted hacc]
  constructor
  · intro h hnil
    rw [hnil] at h
    contradiction
  · intro hl
    rw [finishGroup_eq_misalignedLength (hs.imp_right .inl) hl]
    rfl

end Sys2Proof.Machine
end

section
/-! The DRAIN step (44_stream_engine.md R178, R180): what it answers in each of its cases. -/
namespace Sys2Proof.Machine
variable {b : Byte} {rest : List OutAnswer} {onOk : State → State} {byteStep : State → Result}
  {i : Instr} {s : State}

/-! One output byte, by the host's answer. -/

theorem outWrite_of_ok (h : s.acks = .ok :: rest) : outWrite b onOk s = .next (onOk (acceptByte b rest s)) := by
  rw [outWrite, h]

theorem outWrite_of_err (h : s.acks = .err :: rest) :
    outWrite b onOk s = .next (raise .ioWriteError (refuseByte rest s)) := by
  rw [outWrite, h]

theorem writeNext_of_written (h : readCell s.obuf s.opos = some b) : writeNext onOk s = outWrite b onOk s := by
  rw [writeNext, h]

/-! The step while a byte is left, and the step at the end. -/

theorem drainStep_of_lt (h : s.opos < s.olen) : drainStep byteStep s = byteStep s := if_pos h

theorem drainStep_of_eq (h : s.opos = s.olen) : drainStep byteStep s = .next (endDrain s) := by
  rw [drainStep, if_neg h.not_lt, if_pos h]

/-- DRAIN of an encode operation writes its bytes through the line wrapper (R179). -/
theorem exec_drain_of_encode (hm : modeOf i = .encode) (hp : s.phase = .drain) :
    exec i s = drainStep drainByteEncode s := by
  rw [exec_of_encode hm, encodeStep, hp]

/-- DRAIN of a decode operation writes its bytes as they are (R178). -/
theorem exec_drain_of_decode (hm : modeOf i = .decode) (hp : s.phase = .drain) :
    exec i s = drainStep drainByteDecode s := by
  rw [exec_of_decode hm, decodeStep, hp]

/-- With every byte written, DRAIN ends the same way in both modes (R180). -/
theorem exec_drain_of_eq (hp : s.phase = .drain) (h : s.opos = s.olen) : exec i s = .next (endDrain s) := by
  cases hm : modeOf i with
  | encode => rw [exec_drain_of_encode hm hp, drainStep_of_eq h]
  | decode => rw [exec_drain_of_decode hm hp, drainStep_of_eq h]

theorem endDrain_of_eos (h : s.eos = true) : endDrain s = enterPhase .finish s := if_pos h

theorem endDrain_of_not_eos (h : s.eos = false) : endDrain s = { s with ilen := 0, phase := .fill } := by
  rw [endDrain, h]
  rfl

/-- The operations of `decodeOps` are of mode DEC and carry the scheme beside them and the operand
(30_encoding.md R75). -/
theorem fields_of_mem_decodeOps {g : Bool} :
    ∀ p ∈ decodeOps g, modeOf p.1 = .decode ∧ schemeOf p.1 = p.2 ∧ ignoreGarbageOf p.1 = g := by
  cases g <;> decide

/-- Settles O15: a decode operation hands the byte to the host, with no line wrapping in between. -/
theorem decodeDrainWritesNextByte : Obligations.DecodeDrainWritesNextByte := by
  intro g s b p hp hphase hlt hb
  obtain ⟨hm, -, -⟩ := fields_of_mem_decodeOps p hp
  have hexec : exec p.1 s = outWrite b advanceOpos s := by
    rw [exec_drain_of_decode hm hphase, drainStep_of_lt hlt, drainByteDecode, writeNext_of_written hb]
  exact ⟨fun rest h => hexec.trans (outWrite_of_ok h), fun rest h => hexec.trans (outWrite_of_err h)⟩

/-- Settles O17: both modes end DRAIN by `endDrain`, which looks at EOS alone. -/
theorem drainEndsInFinishOrFill : Obligations.DrainEndsInFinishOrFill := by
  intro i s hp hend
  rw [exec_drain_of_eq hp hend]
  exact ⟨fun h => congrArg _ (endDrain_of_eos h), fun h => congrArg _ (endDrain_of_not_eos h)⟩

end Sys2Proof.Machine
end

section
/-! The PROCESS step of the encode operations (44_stream_engine.md R175): the packed chunk always fits OBUF. -/
namespace Sys2Proof.Machine
variable {i : Instr} {s : State} {sc : Scheme} {blk data syms : List Byte} {k : ErrorKind}

theorem commitBounded_of_le {out : List Byte} (h : out.length ≤ obufCap s.params) :
    commitBounded out s = .next (commitOutput out s) := if_pos h

/-! The length of an encoding, block by block (40_radix_encode.md R101, R103, R111). -/

@[simp] theorem packFull_length (sc : Scheme) (blk : List Byte) : (packFull sc blk).length = groupSymbols sc := by
  rw [packFull, List.length_map, blockSymbols_length]

/-- Padding fills a partial block to the symbols of a full one. -/
theorem packPartial_length (hz : sc ≠ .z85) (hb : blk.length < blockBytes sc) :
    (packPartial sc blk).length = groupSymbols sc := by
  rw [packPartial_eq, List.length_append, List.length_map, partialSymbols_length hz hb, List.length_replicate,
    Nat.add_sub_cancel' (dataSymbols_lt_groupSymbols hz hb).le]

/-- Every block, the partial one included, gives the symbols of one group. -/
theorem encRadix_length (hz : sc ≠ .z85) (data : List Byte) : (encRadix sc data).length =
    (data.length / blockBytes sc + if 0 < data.length % blockBytes sc then 1 else 0) * groupSymbols sc := by
  have hwhole : ((wholeBlocks sc data).flatMap (packFull sc)).length =
      data.length / blockBytes sc * groupSymbols sc := by
    simp [wholeBlocks, List.length_flatMap, Function.comp_def]
  have hlast : (lastBlock sc data).length < blockBytes sc :=
    lastBlock_length sc data ▸ Nat.mod_lt _ (blockBytes_pos sc)
  rw [encRadix_eq, List.length_append, hwhole, Nat.add_mul]
  split
  · rw [packPartial_length hz hlast, Nat.one_mul]
  · rw [List.length_nil, Nat.zero_mul]

/-- No more blocks than bytes, and no more than eight symbols a block. -/
theorem encRadix_length_le (hz : sc ≠ .z85) (data : List Byte) : (encRadix sc data).length ≤ 8 * data.length := by
  have hsplit := Nat.div_add_mod' data.length (blockBytes sc)
  have hq := Nat.le_mul_of_pos_right (data.length / blockBytes sc) (blockBytes_pos sc)
  rw [encRadix_length hz, Nat.mul_comm 8]
  refine Nat.mul_le_mul ?_ (groupSymbols_bounds sc).2
  split <;> omega

theorem encodeSymbols_of_radix (hz : sc ≠ .z85) (data : List Byte) :
    encodeSymbols sc data = .ok (encRadix sc data) := by
  cases sc with
  | z85 => exact absurd rfl hz
  | _ => rfl

/-- The bound that OBUF_CAP is made for (00_scope.md R8). -/
theorem encodeSymbols_length_le (h : encodeSymbols sc data = .ok syms) : syms.length ≤ 8 * data.length := by
  by_cases hz : sc = .z85
  · subst hz
    have hal : data.length % 4 = 0 := by
      by_contra hmis
      cases (encZ85_of_misaligned hmis).symm.trans h
    obtain ⟨_, hok, hlen⟩ := (z85EncodedLength data).1 hal
    cases hok.symm.trans h
    omega
  · cases (encodeSymbols_of_radix hz data).symm.trans h
    exact encRadix_length_le hz data

/-! The step, by what the packer answers. -/

/-- PROCESS of an encode operation packs the chunk by the operation's scheme (R175). -/
theorem exec_process_of_encode (hm : modeOf i = .encode) (hp : s.phase = .process) :
    exec i s = encodeProcess (encodeSymbols (schemeOf i)) s := by
  rw [exec_of_encode hm, encodeStep, hp]

section Step
variable (hl : s.ilen ≤ s.params.encChunk) (hd : readCells s.ibuf 0 s.ilen = some data)
include hl hd

theorem encodeProcess_of_packed (h : encodeSymbols sc data = .ok syms) :
    encodeProcess (encodeSymbols sc) s = .next (commitOutput syms s) := by
  have hsyms := encodeSymbols_length_le h
  have hdata := readCells_length _ _ _ _ hd
  have hfit : syms.length ≤ obufCap s.params := le_max_of_le_left (by omega)
  simp only [encodeProcess, chunkOf_eq (cap := inCap s.params .encode) hl hd, h, commitBounded_of_le hfit]

theorem encodeProcess_of_error (h : encodeSymbols sc data = .error k) :
    encodeProcess (encodeSymbols sc) s = .next (raise k s) := by
  simp only [encodeProcess, chunkOf_eq (cap := inCap s.params .encode) hl hd, h]

end Step

/-- The operations of `radixEncodeOps` are of mode ENC and carry the radix scheme beside them (30_encoding.md R75). -/
theorem fields_of_mem_radixEncodeOps {g : Bool} :
    ∀ p ∈ radixEncodeOps g, modeOf p.1 = .encode ∧ schemeOf p.1 = p.2 ∧ p.2 ≠ .z85 := by
  cases g <;> decide

/-- The block of every scheme divides 60, of which an allowed ENC_CHUNK is a multiple (R245). -/
theorem blockBytes_dvd_encChunk {p : Params} (h : p.wf = true) (sc : Scheme) : blockBytes sc ∣ p.encChunk := by
  have hblock : blockBytes sc ∣ 60 := by cases sc <;> decide
  have hchunk : p.encChunk % 60 = 0 := by simp_all [Params.wf]
  exact hblock.trans (Nat.dvd_of_mod_eq_zero hchunk)

/-- Settles O13: the step follows the answer of the packer, which only Z85 makes depend on the length, and whose symbols
fit OBUF. -/
theorem encodeProcessPacksChunk : Obligations.EncodeProcessPacksChunk := by
  intro g s data hp hl hd
  have hlen : data.length = s.ilen := readCells_length _ _ _ _ hd
  refine ⟨fun p hop => ?_, fun hal => ?_, fun hmis => ?_, fun hwf hfull sc => ?_⟩
  · obtain ⟨hm, hsc, hz⟩ := fields_of_mem_radixEncodeOps p hop
    rw [exec_process_of_encode hm hp, hsc]
    exact encodeProcess_of_packed hl hd (encodeSymbols_of_radix hz data)
  · have hok : encodeSymbols .z85 data = .ok _ := encZ85_of_aligned (hlen ▸ hal)
    exact ⟨_, hok, (exec_process_of_encode rfl hp).trans (encodeProcess_of_packed hl hd hok)⟩
  · have herr : encodeSymbols .z85 data = .error .misalignedLength := encZ85_of_misaligned (hlen ▸ hmis)
    exact (exec_process_of_encode rfl hp).trans (encodeProcess_of_error hl hd herr)
  · exact hfull ▸ Nat.mod_eq_zero_of_dvd (blockBytes_dvd_encChunk hwf sc)

end Sys2Proof.Machine
end

section
/-! The PROCESS step of the decode operations (44_stream_engine.md R176): the scan of the chunk from the carried group,
and the end rule on the final chunk. -/
namespace Sys2Proof.Machine
variable {i : Instr} {s : State} {sc : Scheme} {grp : List Nat} {out tail data : List Byte}
  {k : ErrorKind} {g : Bool}

/-! The step, by what the scan and the end rule answer. -/

/-- PROCESS of a decode operation scans the chunk by the operation's scheme and operand (R176). -/
theorem exec_process_of_decode (hm : modeOf i = .decode) (hp : s.phase = .process) :
    exec i s = decodeProcess (schemeOf i) (ignoreGarbageOf i) s := by
  rw [exec_of_decode hm, decodeStep, hp]

section Step
variable (hl : s.ilen ≤ s.params.decChunk) (hd : readCells s.ibuf 0 s.ilen = some data)
include hl hd

theorem decodeProcess_of_scanError
    (h : scan s.params.b16DecodeLowercase sc g (carriedGroup s) data = .error k) :
    decodeProcess sc g s = .next (raise k s) := by
  simp only [decodeProcess, chunkOf_eq (cap := inCap s.params .decode) hl hd, h]

variable (h : scan s.params.b16DecodeLowercase sc g (carriedGroup s) data = .ok (grp, out))
include h

/-- The bound that OBUF_CAP is made for: at most eight carried symbols come before the DEC_CHUNK of the chunk
(00_scope.md R8). -/
theorem scanned_length_le : out.length + grp.length ≤ obufCap s.params := by
  have hscan := scan_out_length h
  have hdata := readCells_length _ _ _ _ hd
  have hcarried : (carriedGroup s).length ≤ 8 := by simp [carriedGroup]
  exact le_max_of_le_right (by omega)

theorem decodeProcess_of_notFinal (he : s.eos = false) (hg : grp.length < 8) :
    decodeProcess sc g s = .next (commitOutput out (keepGroup grp hg s)) := by
  have hfit : out.length ≤ obufCap s.params := le_of_add_le_left (scanned_length_le hl hd h)
  simp only [decodeProcess, chunkOf_eq (cap := inCap s.params .decode) hl hd, h, finalChunk, he, hg]
  exact commitBounded_of_le hfit

theorem decodeProcess_of_final (he : s.eos = true) (hend : finishGroup sc grp = .ok tail) :
    decodeProcess sc g s = .next (commitOutput (out ++ tail) (clearCarry s)) := by
  have hfit : (out ++ tail).length ≤ obufCap s.params :=
    calc (out ++ tail).length
      _ = out.length + tail.length := List.length_append
      _ ≤ out.length + grp.length := Nat.add_le_add_left (finishGroup_length hend) _
      _ ≤ obufCap s.params := scanned_length_le hl hd h
  simp only [decodeProcess, chunkOf_eq (cap := inCap s.params .decode) hl hd, h, finalChunk, he, hend]
  exact commitBounded_of_le hfit

theorem decodeProcess_of_endError (he : s.eos = true) (hend : finishGroup sc grp = .error k) :
    decodeProcess sc g s = .next (raise k s) := by
  simp only [decodeProcess, chunkOf_eq (cap := inCap s.params .decode) hl hd, h, finalChunk, he, hend]
  rfl

end Step

/-! The scan of a chunk, and the end rule where it is no error. -/

theorem scan_of_invalid {low : Bool} (hl : grp.length < groupSymbols sc) (h : hasInvalid low sc data = true) :
    scan low sc false grp data = .error .invalidInputSymbol := by
  rw [scan_eq data hl, if_pos ⟨rfl, h⟩]

theorem scan_of_accepted {low : Bool} (hl : grp.length < groupSymbols sc)
    (h : g = true ∨ hasInvalid low sc data = false) : scan low sc g grp data =
      .ok (leftover sc (grp ++ validSymbols low sc data), fullGroups sc (grp ++ validSymbols low sc data)) := by
  rw [scan_eq data hl, if_neg]
  rintro ⟨rfl, hinv⟩
  simp [hinv] at h

/-- Nothing is unpacked at the end from an empty group, or from one base16 digit (R139). -/
theorem finishGroup_eq_nil (h : grp = [] ∨ sc = .base16) : finishGroup sc grp = .ok [] :=
  h.elim (if_pos ·) fun hs => hs ▸ finishGroup_base16 grp

/-- The base64 and base32 families unpack the group at the end partially (R137). -/
theorem finishGroup_of_family (h : sc = .base64 ∨ sc = .base64url ∨ sc = .base32 ∨ sc = .base32hex) :
    finishGroup sc grp = .ok (unpackPartial sc grp) := by
  have hz : sc ≠ .z85 := by rintro rfl; simp at h
  have hb : 1 < blockBytes sc := by rcases h with rfl | rfl | rfl | rfl <;> decide
  exact finishGroup_eq_unpackPartial hz hb grp

/-- The leftover symbols fit the carry (10_state.md R35). -/
theorem leftover_length_lt_eight (sc : Scheme) (syms : List Nat) : (leftover sc syms).length < 8 :=
  (leftover_length sc syms ▸ Nat.mod_lt _ (groupSymbols_pos sc)).trans_le (groupSymbols_bounds sc).2

theorem carriedGroup_length_lt {n : Nat} (h : s.carryCnt < n) : (carriedGroup s).length < n := by
  simp only [carriedGroup, List.length_map, List.length_take]
  omega

/-- Settles O14: the chunk's scan starts from the carried group, so its outcome is the carried and the valid symbols cut
into groups; EOS then decides between the carry and the end rule. -/
theorem decodeProcessUnpacksChunk : Obligations.DecodeProcessUnpacksChunk := by
  intro g s data p hop hp hl hcarry hd low syms left
  obtain ⟨hm, hsc, hg⟩ := fields_of_mem_decodeOps p hop
  have hexec : exec p.1 s = decodeProcess p.2 g s := hg ▸ hsc ▸ exec_process_of_decode hm hp
  have hgrp : (carriedGroup s).length < groupSymbols p.2 := carriedGroup_length_lt hcarry
  rw [hexec]
  refine ⟨fun hstrict hinv => ?_, fun hacc he => ?_, fun hacc he => ?_⟩
  · exact decodeProcess_of_scanError hl hd (hstrict ▸ scan_of_invalid hgrp hinv)
  · have hleft : left.length < 8 := leftover_length_lt_eight p.2 syms
    exact ⟨hleft, decodeProcess_of_notFinal hl hd (scan_of_accepted hgrp hacc) he hleft⟩
  · have hscan := scan_of_accepted hgrp hacc
    refine ⟨fun hne hs => ?_, fun hs => ?_, fun _ hs => ?_⟩
    · exact decodeProcess_of_endError hl hd hscan he (finishGroup_eq_misalignedLength hs hne)
    · have hfinal := decodeProcess_of_final hl hd hscan he (finishGroup_eq_nil hs)
      rwa [List.append_nil] at hfinal
    · exact decodeProcess_of_final hl hd hscan he (finishGroup_of_family hs)

end Sys2Proof.Machine
end

section
/-! What IGNORE_GARBAGE changes in a decode operation (60_exceptions.md R222): a scan depends on it only where it meets an
invalid byte, from whatever group it starts. -/
namespace Sys2Proof.Machine
variable {low g : Bool} {sc : Scheme} {grp : List Nat} {data : List Byte} {k : ErrorKind} {s : State}

/-- A strict scan is the lenient scan, except that an invalid byte ends it (42_radix_decode.md R133). -/
theorem scan_eq_lenient (text : List Byte) : scan low sc g grp text =
    if g = false ∧ hasInvalid low sc text = true then .error .invalidInputSymbol else scan low sc true grp text := by
  cases g with
  | true => simp
  | false =>
    induction text generalizing grp with
    | nil => rfl
    | cons c cs ih =>
      rw [hasInvalid_cons]
      cases hc : classify low sc c with
      | nl => rw [scan_skip (.inl hc), scan_skip (.inl hc), ih]; rfl
      | padch => rw [scan_skip (.inr (.inl hc)), scan_skip (.inr (.inl hc)), ih]; rfl
      | inv => rw [scan_invalid hc]; simp
      | sym v =>
        by_cases hfull : grp.length + 1 = groupSymbols sc
        · rw [scan_group hc hfull, scan_group hc hfull, ih, apply_ite (Except.map _)]; rfl
        · rw [scan_sym hc hfull, scan_sym hc hfull, ih]; rfl

theorem scan_strict_of_invalid (h : hasInvalid low sc data = true) :
    scan low sc false grp data = .error .invalidInputSymbol := by
  rw [scan_eq_lenient, if_pos ⟨rfl, h⟩]

theorem scan_of_no_invalid (h : hasInvalid low sc data = false) :
    scan low sc g grp data = scan low sc true grp data := by
  rw [scan_eq_lenient, if_neg (by simp [h])]

/-- A scan ends with an error only at an invalid byte: a lenient scan has no error, and without such a byte every scan is
lenient. -/
theorem hasInvalid_of_scan_error (h : scan low sc g grp data = .error k) : hasInvalid low sc data = true := by
  by_contra hinv
  rw [scan_of_no_invalid (Bool.eq_false_of_not_eq_true hinv)] at h
  obtain ⟨-, hlenient⟩ := scan_error h
  contradiction

/-- Only PROCESS reads the operand. -/
theorem decodeStep_of_not_process (hp : s.phase ≠ .process) (g g' : Bool) : decodeStep sc g s = decodeStep sc g' s := by
  cases h : s.phase with
  | process => exact absurd h hp
  | _ => simp only [decodeStep, h]

theorem decodeProcess_of_no_invalid (hd : readCells s.ibuf 0 s.ilen = some data)
    (hinv : hasInvalid s.params.b16DecodeLowercase sc data = false) :
    decodeProcess sc g s = decodeProcess sc true s := by
  unfold decodeProcess
  cases hchunk : chunkOf (inCap s.params .decode) s with
  | error f => rfl
  | ok chunk =>
    obtain ⟨-, hread⟩ := chunkOf_ok hchunk
    cases hd.symm.trans hread
    dsimp only
    rw [scan_of_no_invalid hinv]

end Sys2Proof.Machine
end

section
/-! The engine steps that take the error entry, each with its cause (60_exceptions.md R211, R212, R214, R215). -/
namespace Sys2Proof.Machine
variable {i : Instr} {s t : State}

/-- The answers of an operation's engine step in `s` that are an error entry: the host answered ERR, the chunk or the
whole text has a wrong length, or a strict scan met an invalid byte. -/
inductive ErrorEntry (i : Instr) (s : State) : State → Prop
  | readError {rest : List InItem} (hin : s.input = .err :: rest) :
      ErrorEntry i s (raise .ioReadError (consumeItem rest s))
  | writeError {rest : List OutAnswer} (hack : s.acks = .err :: rest) :
      ErrorEntry i s (raise .ioWriteError (refuseByte rest s))
  | misalignedInput {data : List Byte} (hp : s.phase = .process) (hm : modeOf i = .encode)
      (hd : readCells s.ibuf 0 s.ilen = some data) (hlen : data.length % 4 ≠ 0) :
      ErrorEntry i s (raise .misalignedLength s)
  | misalignedText (hp : s.phase = .process) (hm : modeOf i = .decode) (he : s.eos = true) :
      ErrorEntry i s (raise .misalignedLength s)
  | invalidSymbol {data : List Byte} (hp : s.phase = .process) (hm : modeOf i = .decode)
      (hg : ignoreGarbageOf i = false) (hd : readCells s.ibuf 0 s.ilen = some data)
      (hinv : hasInvalid s.params.b16DecodeLowercase (schemeOf i) data = true) :
      ErrorEntry i s (raise .invalidInputSymbol s)

/-- What a step that takes no error entry keeps: it does not go to ERROR and leaves ERR as it was. -/
def KeepsErr (s t : State) : Prop := t.phase ≠ .error ∧ t.err = s.err

theorem encodeProcess_errorEntry_or_keeps (hp : s.phase = .process) (hm : modeOf i = .encode)
    (h : encodeProcess (encodeSymbols (schemeOf i)) s = .next t) : ErrorEntry i s t ∨ KeepsErr s t := by
  obtain ⟨data, -, hd, ⟨k, herr, rfl⟩ | ⟨syms, -, -, rfl⟩⟩ := encodeProcess_cases h
  · obtain ⟨rfl, -, hlen⟩ := encodeSymbols_error herr
    exact .inl (.misalignedInput hp hm hd hlen)
  · exact .inr (by simp [KeepsErr])

theorem decodeProcess_errorEntry_or_keeps (hp : s.phase = .process) (hm : modeOf i = .decode)
    (h : decodeProcess (schemeOf i) (ignoreGarbageOf i) s = .next t) : ErrorEntry i s t ∨ KeepsErr s t := by
  obtain ⟨data, -, hd, ⟨k, hscan, rfl⟩ | ⟨grp, out, -, ⟨he, ⟨k, hend, rfl⟩ | ⟨tail, -, -, rfl⟩⟩ | ⟨-, hg, -, rfl⟩⟩⟩ :=
    decodeProcess_cases h
  · obtain ⟨rfl, hstrict⟩ := scan_error hscan
    exact .inl (.invalidSymbol hp hm hstrict hd (hasInvalid_of_scan_error hscan))
  · obtain ⟨rfl, -, -⟩ := finishGroup_error hend
    exact .inl (.misalignedText hp hm he)
  · exact .inr (by simp [KeepsErr])
  · exact .inr (by simp [KeepsErr])

/-- Every engine step takes an error entry, or goes to another phase than ERROR with ERR as it was. -/
theorem exec_errorEntry_or_keeps (h : exec i s = .next t) : ErrorEntry i s t ∨ KeepsErr s t := by
  rcases exec_cases h with
    ⟨hp, -, -, ⟨b, r, -, rfl⟩ | ⟨r, -, rfl⟩ | ⟨r, hin, rfl⟩⟩ | ⟨-, -, rfl⟩ | ⟨hp, hm, h⟩ | ⟨hp, hm, h⟩ |
    ⟨hp, -, ⟨r, hack, rfl⟩ | ⟨-, -, r, -, rfl⟩ | ⟨-, -, b, r, -, -, rfl⟩ | ⟨-, b, r, -, -, rfl⟩⟩ | ⟨-, -, rfl⟩ |
    ⟨-, -, -, -, ⟨r, -, rfl⟩ | ⟨r, hack, rfl⟩⟩ | ⟨-, -, rfl⟩
  · exact .inr (by simp [KeepsErr, hp])
  · exact .inr (by simp [KeepsErr, hp])
  · exact .inl (.readError hin)
  · exact .inr (by simp [KeepsErr])
  · exact encodeProcess_errorEntry_or_keeps hp hm h
  · exact decodeProcess_errorEntry_or_keeps hp hm h
  · exact .inl (.writeError hack)
  · exact .inr (by simp [KeepsErr, hp])
  · exact .inr (by simp [KeepsErr, hp])
  · exact .inr (by simp [KeepsErr, hp])
  · exact .inr (by cases he : s.eos <;> simp [KeepsErr, he])
  · exact .inr (by simp [KeepsErr])
  · exact .inl (.writeError hack)
  · exact .inr (by simp [KeepsErr])

/-- An error entry changes ERR, PHASE and, on the host's side, takes the answer that was ERR (R219). -/
theorem ErrorEntry.frame (h : ErrorEntry i s t) :
    (∃ k, t = { s with err := some k, phase := .error, input := t.input, acks := t.acks }) ∧
    (t.input = s.input ∨ s.input = .err :: t.input) ∧ (t.acks = s.acks ∨ s.acks = .err :: t.acks) := by
  cases h with
  | readError hin => exact ⟨⟨_, rfl⟩, .inr hin, .inl rfl⟩
  | writeError hack => exact ⟨⟨_, rfl⟩, .inl rfl, .inr hack⟩
  | misalignedInput | misalignedText | invalidSymbol => exact ⟨⟨_, rfl⟩, .inl rfl, .inl rfl⟩

/-- Settles O23: of the error entries only that of the strict scan names InvalidInputSymbol, and a strict scan of an
invalid byte always ends in it. -/
theorem invalidSymbolOnlyInStrictDecode : Obligations.InvalidSymbolOnlyInStrictDecode := by
  refine ⟨fun i s t hexec hs ht => ?_, fun i s data hp hm hg hl hd hinv => ?_⟩
  · obtain hentry | ⟨-, hkeep⟩ := exec_errorEntry_or_keeps hexec
    · cases hentry with
      | invalidSymbol hp hm hg hd hinv => exact ⟨hp, hm, hg, ⟨_, hd, hinv⟩, rfl⟩
      | readError | writeError | misalignedInput | misalignedText => simp at ht
    · exact absurd (hkeep.symm.trans ht) hs
  · rw [exec_process_of_decode hm hp, hg]
    exact decodeProcess_of_scanError hl hd (scan_strict_of_invalid hinv)

/-- The two modes of a decode operation: one scheme, and either operand. -/
theorem fields_of_mem_decodeModes : ∀ pq ∈ (decodeOps true).zip (decodeOps false),
    modeOf pq.1.1 = .decode ∧ schemeOf pq.1.1 = pq.1.2 ∧ ignoreGarbageOf pq.1.1 = true ∧
    modeOf pq.2.1 = .decode ∧ schemeOf pq.2.1 = pq.1.2 := by
  decide

/-- Settles O27: the operand is read by the scan alone, which it changes at invalid bytes alone. -/
theorem ignoreGarbageRemovesOneCause : Obligations.IgnoreGarbageRemovesOneCause := by
  refine ⟨fun s pq hpq => ?_, fun s hp => ?_, fun low sc => ⟨rfl, rfl, classify_padByte⟩⟩
  · obtain ⟨hm, hsc, hg, hm', hsc'⟩ := fields_of_mem_decodeModes pq hpq
    refine ⟨fun hp => ?_, fun hp data hd hinv => ?_, fun t hexec ht => ?_⟩
    · rw [exec_of_decode hm, exec_of_decode hm', hsc, hsc']
      exact decodeStep_of_not_process hp _ _
    · rw [exec_process_of_decode hm hp, exec_process_of_decode hm' hp, hsc, hsc', hg]
      exact (decodeProcess_of_no_invalid hd hinv).symm
    · by_contra hs
      obtain ⟨-, -, hstrict, -⟩ := invalidSymbolOnlyInStrictDecode.1 _ _ _ hexec hs ht
      exact absurd (hg.symm.trans hstrict) Bool.true_eq_false.mp
  · rcases startSession_cases s with ⟨hne, -⟩ | ⟨-, hres, h⟩ | ⟨-, hres, h⟩
    · exact absurd hp hne
    · exact iff_of_true (h ▸ ⟨rfl, rfl⟩) hres
    · exact iff_of_false (by simp [h]) (not_not_intro hres)

end Sys2Proof.Machine
end

section
/-! The steps into ERROR and from it (60_exceptions.md R216, R219, R220). -/
namespace Sys2Proof.Machine
variable {s : State} {c : HostCmd}

/-! The host's commands. -/

@[simp] theorem cfgWrite_phase (r : CfgReg) (v : Nat) (s : State) : (cfgWrite r v s).phase = s.phase := by
  rcases cfgWrite_cases r v s with ⟨-, h⟩ | ⟨-, -, h⟩ | ⟨-, -, h⟩ <;> rw [h]

/-- START with reserved bits in CTRL is the one command that goes to ERROR (R216). -/
theorem hostCommand_enters_error (hp : s.phase ≠ .error) (h : (hostCommand c s).phase = .error) :
    hostCommand c s = raise .unsupportedScheme s := by
  cases c with
  | cfgWrite r v => exact absurd ((cfgWrite_phase r v s).symm.trans h) hp
  | read r => exact absurd h hp
  | reset => exact absurd h (by simp [hostCommand])
  | start =>
    rcases startSession_cases s with ⟨-, hs⟩ | ⟨-, -, hs⟩ | ⟨-, -, hs⟩
    · exact absurd (hs ▸ h) hp
    · exact hs
    · exact absurd h (by simp [hostCommand, hs])

/-- In ERROR every command but RESET leaves the engine as it is (R220). -/
theorem hostCommand_of_error (hp : s.phase = .error) (hc : c ≠ .reset) :
    hostCommand c s = { s with readback := (hostCommand c s).readback } := by
  have hidle : s.phase ≠ .idle := by simp [hp]
  cases c with
  | cfgWrite r v => rw [hostCommand, cfgWrite_of_not_idle r v s hidle]
  | start => rw [hostCommand, startSession_of_not_idle s hidle]
  | reset => exact absurd rfl hc
  | read r => rfl

/-- A due command is taken in every phase (44_stream_engine.md R171). -/
theorem step_of_due {rest : List HostTurn} (hw : s.params.wf = true) (ht : s.turns = .cmd c :: rest) :
    step s = .next (hostCommand c (dropTurn s)) := by
  simp only [step, fetch, if_pos hw, ht]

/-! The engine's turn. -/

/-- The state an engine step is taken in: the turn left to the engine is used up, if there was one (log 3). -/
theorem engineTurn_state {u : State}
    (h : u = s ∧ s.turns = [] ∨ u = dropTurn s ∧ ∃ r, s.turns = .engine :: r) :
    u = { s with turns := u.turns } ∧ (u.turns = s.turns ∨ ∃ x, s.turns = x :: u.turns) := by
  obtain ⟨rfl, -⟩ | ⟨rfl, r, hr⟩ := h
  · exact ⟨rfl, .inl rfl⟩
  · exact ⟨rfl, .inr ⟨.engine, by simp [hr]⟩⟩

/-- In ERROR no operation has an engine step (44_stream_engine.md R171). -/
theorem exec_of_error (hp : s.phase = .error) (i : Instr) : exec i s = .fault .sessionError := by
  cases hm : modeOf i with
  | encode => rw [exec_of_encode hm, encodeStep, hp]
  | decode => rw [exec_of_decode hm, decodeStep, hp]

theorem exec_ne_next_of_error (hp : s.phase = .error) (i : Instr) (u : State) : exec i s ≠ .next u := by
  rw [exec_of_error hp]
  exact nofun

/-- Settles O19: the step took an error entry of the operation, or a START with reserved bits. -/
theorem errorEntryChangesOnlyErrAndPhase : Obligations.ErrorEntryChangesOnlyErrAndPhase := by
  intro s t hstep hp ht
  have hstop : ∀ i u, exec i t ≠ .next u := exec_ne_next_of_error ht
  obtain ⟨-, ⟨c, r, hdue, rfl⟩ | ⟨i, u, hturn, -, -, hexec⟩⟩ := step_cases hstep
  · rw [hostCommand_enters_error (s := dropTurn s) hp ht] at hstop ⊢
    exact ⟨⟨_, rfl⟩, .inl rfl, .inl rfl, .inr ⟨.cmd c, by simp [hdue]⟩, hstop⟩
  · obtain ⟨hu, hturns⟩ := engineTurn_state hturn
    obtain hentry | ⟨hne, -⟩ := exec_errorEntry_or_keeps hexec
    · obtain ⟨⟨k, hk⟩, hin, hack⟩ := hentry.frame
      rw [hu] at hk hin hack
      have htt : t.turns = u.turns := by rw [hk]
      exact ⟨⟨k, htt ▸ hk⟩, hin, hack, htt ▸ hturns, hstop⟩
    · exact absurd ht hne

/-- Settles O20: a step from ERROR is a command, and RESET aside a command does no more there than answer a read. -/
theorem errorIsTerminalUntilReset : Obligations.ErrorIsTerminalUntilReset := by
  intro s hp
  refine ⟨exec_ne_next_of_error hp, fun rest hw hdue => ?_, fun t hstep hreset => ?_⟩
  · exact ⟨_, step_of_due hw hdue, rfl, rfl, rfl, rfl, rfl, rfl, rfl, rfl, rfl, rfl⟩
  · obtain ⟨-, ⟨c, r, hdue, rfl⟩ | ⟨i, u, hturn, -, -, hexec⟩⟩ := step_cases hstep
    · have hc : c ≠ .reset := by rintro rfl; exact hreset r hdue
      rw [hostCommand_of_error (s := dropTurn s) hp hc]
      rfl
    · have hu : u.phase = .error := by rw [(engineTurn_state hturn).1]; exact hp
      exact absurd hexec (exec_ne_next_of_error hu i t)

end Sys2Proof.Machine
end

section
/-! The engine step whose request the host answers with ERR (60_exceptions.md R214, R215). -/
namespace Sys2Proof.Machine
variable {i : Instr} {s : State}

theorem exec_fill (hp : s.phase = .fill) (i : Instr) : exec i s = fillStep (inCap s.params (modeOf i)) s := by
  cases hm : modeOf i with
  | encode => rw [exec_of_encode hm, encodeStep, hp]
  | decode => rw [exec_of_decode hm, decodeStep, hp]

theorem fillStep_of_err {cap : Nat} {rest : List InItem} (hl : s.ilen < cap) (he : s.eos = false)
    (hin : s.input = .err :: rest) : fillStep cap s = .next (raise .ioReadError (consumeItem rest s)) := by
  rw [fillStep, if_pos ⟨hl, he⟩, hin]

section WriteError
variable {rest : List OutAnswer} {b : Byte} (hack : s.acks = .err :: rest)
include hack

/-- The symbol or the newline before it, whichever the wrapper has next (45_line_wrapper.md R201). -/
theorem drainByteEncode_of_err (hb : readCell s.obuf s.opos = some b) :
    drainByteEncode s = .next (raise .ioWriteError (refuseByte rest s)) := by
  cases hfull : lineFull s with
  | true => rw [drainByteEncode, if_pos hfull, outWrite_of_err hack]
  | false => rw [drainByteEncode, hfull, if_neg Bool.false_ne_true, writeNext_of_written hb, outWrite_of_err hack]

theorem drainByteDecode_of_err (hb : readCell s.obuf s.opos = some b) :
    drainByteDecode s = .next (raise .ioWriteError (refuseByte rest s)) := by
  rw [drainByteDecode, writeNext_of_written hb, outWrite_of_err hack]

theorem exec_drain_of_err (hp : s.phase = .drain) (hlt : s.opos < s.olen) (hb : readCell s.obuf s.opos = some b)
    (i : Instr) : exec i s = .next (raise .ioWriteError (refuseByte rest s)) := by
  cases hm : modeOf i with
  | encode => rw [exec_drain_of_encode hm hp, drainStep_of_lt hlt, drainByteEncode_of_err hack hb]
  | decode => rw [exec_drain_of_decode hm hp, drainStep_of_lt hlt, drainByteDecode_of_err hack hb]

/-- The trailing newline (45_line_wrapper.md R203). -/
theorem exec_finish_of_err (hm : modeOf i = .encode) (hp : s.phase = .finish) (hw : s.wrap ≠ 0#32)
    (hcol : s.col ≠ 0#32) : exec i s = .next (raise .ioWriteError (refuseByte rest s)) := by
  rw [exec_of_encode hm, encodeStep, hp]
  dsimp only
  rw [finishEncode, if_pos (by simp [wrapEnabled, hw, hcol]), outWrite_of_err hack]

end WriteError

/-- Settles O21: the entry leaves the engine in ERROR, where no operation has a step. -/
theorem readErrorDiscardsChunk : Obligations.ReadErrorDiscardsChunk := by
  intro i s rest hp hl he hin
  have hexec : exec i s = .next (raise .ioReadError (consumeItem rest s)) := by
    rw [exec_fill hp, fillStep_of_err hl he hin]
  exact ⟨_, hexec, rfl, exec_ne_next_of_error rfl⟩

/-- Settles O22: every `OutWrite` of DRAIN and FINISH goes through `outWrite`. -/
theorem writeErrorEndsSession : Obligations.WriteErrorEndsSession := by
  intro i s rest hack hwrites
  rcases hwrites with ⟨hp, hlt, hsome⟩ | ⟨hp, hm, hw, hcol⟩
  · obtain ⟨b, hb⟩ := Option.isSome_iff_exists.mp hsome
    exact exec_drain_of_err hack hp hlt hb i
  · exact exec_finish_of_err hack hm hp hw hcol

end Sys2Proof.Machine
end

section
/-! The CTRL word of an operation, read back (30_encoding.md R71 to R76), and the alphabets as printed (R81 to R88). -/
namespace Sys2Proof.Machine
variable {c : Byte} {i : Instr}

theorem decode_encode (i : Instr) : decode (encode i) = .ok i := by
  cases i with
  | encB64 g | encB64Url g | encB32 g | encB32Hex g | encB16 g | encB2Msbf g | encB2Lsbf g | encZ85 g
  | decB64 g | decB64Url g | decB32 g | decB32Hex g | decB16 g | decB2Msbf g | decB2Lsbf g | decZ85 g =>
    cases g <;> rfl

theorem decode_of_reserved (h : ctrlReserved c ≠ 0#3) : decode c = .error .reservedBits := if_pos h

/-- Every opcode stands in the operation map, with an operation of that opcode and any operand (R75). -/
theorem opTable_lookup (o : BitVec 4) :
    ∃ op, opTable.lookup o = some op ∧ ∀ g, opcode (op g) = o ∧ ignoreGarbageOf (op g) = g := by
  have hrows : ∀ o, ∃ h : (opTable.lookup o).isSome,
      ∀ g, opcode ((opTable.lookup o).get h g) = o ∧ ignoreGarbageOf ((opTable.lookup o).get h g) = g := by decide
  obtain ⟨h, hop⟩ := hrows o
  exact ⟨_, (Option.some_get h).symm, hop⟩

/-- A word is its three fields, most significant first (R71). -/
theorem ctrl_eq_append : ∀ c : Byte, ctrlReserved c ++ BitVec.ofBool (ctrlIgnoreGarbage c) ++ ctrlOpcode c = c := by
  decide

/-- A word without reserved bits is the word of the operation it selects (R75, R76). -/
theorem decode_of_legal (h : ctrlReserved c = 0#3) : ∃ i, decode c = .ok i ∧ encode i = c := by
  obtain ⟨op, hop, hfields⟩ := opTable_lookup (ctrlOpcode c)
  obtain ⟨hcode, hg⟩ := hfields (ctrlIgnoreGarbage c)
  refine ⟨op (ctrlIgnoreGarbage c), ?_, ?_⟩
  · rw [decode, if_neg (not_not_intro h), hop]
  · rw [encode, hcode, hg, ← h]
    exact ctrl_eq_append c

/-- Settles O1: a word without reserved bits is put together from the opcode and the operand of the operation it
selects, and any other word fails the first check of `decode`. -/
theorem ctrlDecodeEncodeAgree : Obligations.CtrlDecodeEncodeAgree := by
  refine ⟨decode_encode, fun c i hc => ?_, fun c h => ?_, fun c h => decode_of_reserved h⟩
  · obtain ⟨hlegal, -⟩ := decode_fields c i hc
    obtain ⟨j, hj, henc⟩ := decode_of_legal hlegal
    cases hc.symm.trans hj
    exact henc
  · obtain ⟨i, hi, -⟩ := decode_of_legal h
    exact ⟨i, hi⟩

/-- Settles O2: the printed words, evaluated. -/
theorem printedCtrlWordsDecode : Obligations.PrintedCtrlWordsDecode := by
  unfold Obligations.PrintedCtrlWordsDecode
  and_intros <;> rfl

/-- Settles O60: the alphabets, evaluated value by value. -/
theorem alphabetsAreAsPrinted : Obligations.AlphabetsAreAsPrinted := by
  unfold Obligations.AlphabetsAreAsPrinted
  decide

end Sys2Proof.Machine
end

section
/-! The engine steps of all operations as one relation (44_stream_engine.md R173 to R181), and with it what a step does
to the two streams (20_memory.md section 1). -/
namespace Sys2Proof.Machine
variable {i : Instr} {s t : State}

/-- The next states of an operation's engine step in `s`, one constructor for each thing a step does. -/
inductive EngineStep (i : Instr) (s : State) : State → Prop
  | takeByte {b : Byte} {rest : List InItem} (hp : s.phase = .fill) (hl : s.ilen < inCap s.params (modeOf i))
      (he : s.eos = false) (hin : s.input = .byte b :: rest) : EngineStep i s (pushByte b (consumeItem rest s))
  | takeEos {rest : List InItem} (hp : s.phase = .fill) (hin : s.input = .eos :: rest) :
      EngineStep i s (setEos (consumeItem rest s))
  | readError {rest : List InItem} (hp : s.phase = .fill) (hin : s.input = .err :: rest) :
      EngineStep i s (raise .ioReadError (consumeItem rest s))
  | endFill (hp : s.phase = .fill) (hend : s.ilen = inCap s.params (modeOf i) ∨ s.eos = true) :
      EngineStep i s (enterPhase .process s)
  | pack {syms : List Byte} (hp : s.phase = .process) (hm : modeOf i = .encode)
      (hfit : syms.length ≤ obufCap s.params) : EngineStep i s (commitOutput syms s)
  | unpack {grp : List Nat} {out data : List Byte} (hp : s.phase = .process) (hm : modeOf i = .decode)
      (he : s.eos = false)
      (hscan : scan s.params.b16DecodeLowercase (schemeOf i) (ignoreGarbageOf i) (carriedGroup s) data = .ok (grp, out))
      (hg : grp.length < 8) (hfit : out.length ≤ obufCap s.params) :
      EngineStep i s (commitOutput out (keepGroup grp hg s))
  | unpackLast {out : List Byte} (hp : s.phase = .process) (hm : modeOf i = .decode)
      (hfit : out.length ≤ obufCap s.params) : EngineStep i s (commitOutput out (clearCarry s))
  | processError {k : ErrorKind} (hp : s.phase = .process) : EngineStep i s (raise k s)
  | breakLine {rest : List OutAnswer} (hp : s.phase = .drain) (hm : modeOf i = .encode) (hlt : s.opos < s.olen)
      (hack : s.acks = .ok :: rest) : EngineStep i s (clearCol (acceptByte newlineByte rest s))
  | writeSymbol {b : Byte} {rest : List OutAnswer} (hp : s.phase = .drain) (hm : modeOf i = .encode)
      (hlt : s.opos < s.olen) (hfull : lineFull s = false) (hack : s.acks = .ok :: rest) :
      EngineStep i s (countSymbol (advanceOpos (acceptByte b rest s)))
  | writeByte {b : Byte} {rest : List OutAnswer} (hp : s.phase = .drain) (hm : modeOf i = .decode)
      (hlt : s.opos < s.olen) (hack : s.acks = .ok :: rest) : EngineStep i s (advanceOpos (acceptByte b rest s))
  | writeError {rest : List OutAnswer} (hp : s.phase = .drain ∨ s.phase = .finish) (hack : s.acks = .err :: rest) :
      EngineStep i s (raise .ioWriteError (refuseByte rest s))
  | drained (hp : s.phase = .drain) (hend : s.opos = s.olen) : EngineStep i s (endDrain s)
  | lastNewline {rest : List OutAnswer} (hp : s.phase = .finish) (hm : modeOf i = .encode)
      (hack : s.acks = .ok :: rest) : EngineStep i s (enterPhase .done (clearCol (acceptByte newlineByte rest s)))
  | finish (hp : s.phase = .finish) (hend : modeOf i = .decode ∨ wrapEnabled s = false ∨ s.col = 0#32) :
      EngineStep i s (enterPhase .done s)

theorem engineStep_of_exec (h : exec i s = .next t) : EngineStep i s t := by
  rcases exec_cases h with
    ⟨hp, hl, he, ⟨b, r, hin, rfl⟩ | ⟨r, hin, rfl⟩ | ⟨r, hin, rfl⟩⟩ | ⟨hp, hend, rfl⟩ | ⟨hp, hm, h⟩ | ⟨hp, hm, h⟩ |
    ⟨hp, hlt, ⟨r, hack, rfl⟩ | ⟨hm, -, r, hack, rfl⟩ | ⟨hm, hfull, b, r, -, hack, rfl⟩ | ⟨hm, b, r, -, hack, rfl⟩⟩ |
    ⟨hp, hend, rfl⟩ | ⟨hp, hm, -, -, ⟨r, hack, rfl⟩ | ⟨r, hack, rfl⟩⟩ | ⟨hp, hend, rfl⟩
  · exact .takeByte hp hl he hin
  · exact .takeEos hp hin
  · exact .readError hp hin
  · exact .endFill hp hend
  · obtain ⟨data, -, -, ⟨k, -, rfl⟩ | ⟨syms, -, hfit, rfl⟩⟩ := encodeProcess_cases h
    · exact .processError hp
    · exact .pack hp hm hfit
  · obtain ⟨data, -, -, ⟨k, -, rfl⟩ |
      ⟨grp, out, hscan, ⟨-, ⟨k, -, rfl⟩ | ⟨tail, -, hfit, rfl⟩⟩ | ⟨he, hg, hfit, rfl⟩⟩⟩ := decodeProcess_cases h
    · exact .processError hp
    · exact .processError hp
    · exact .unpackLast hp hm hfit
    · exact .unpack hp hm he hscan hg hfit
  · exact .writeError (.inl hp) hack
  · exact .breakLine hp hm hlt hack
  · exact .writeSymbol hp hm hlt hfull hack
  · exact .writeByte hp hm hlt hack
  · exact .drained hp hend
  · exact .lastNewline hp hm hack
  · exact .writeError (.inr hp) hack
  · exact .finish hp hend

/-- The two updates that look at the state before they write, as plain updates. -/
theorem countSymbol_eq (s : State) : countSymbol s = { s with col := (countSymbol s).col } := by
  unfold countSymbol; split <;> rfl

theorem endDrain_eq (s : State) :
    endDrain s = { s with phase := (endDrain s).phase, ilen := (endDrain s).ilen } := by
  unfold endDrain; split <;> rfl

/-- Settles O59: the constructors of `EngineStep` that touch a stream name the phase and the host's answer. -/
theorem streamsTouchedOnlyInTheirPhases : Obligations.StreamsTouchedOnlyInTheirPhases := by
  intro i s t h
  cases engineStep_of_exec h with
  | takeByte hp _ _ hin | takeEos hp hin | readError hp hin => exact ⟨.inr ⟨hp, _, hin⟩, .inl ⟨rfl, rfl⟩⟩
  | breakLine hp _ _ hack | writeByte hp _ _ hack => exact ⟨.inl rfl, .inr ⟨.inl hp, .inl ⟨_, rfl, hack⟩⟩⟩
  | writeSymbol hp _ _ _ hack =>
    rw [countSymbol_eq]
    exact ⟨.inl rfl, .inr ⟨.inl hp, .inl ⟨_, rfl, hack⟩⟩⟩
  | lastNewline hp _ hack => exact ⟨.inl rfl, .inr ⟨.inr hp, .inl ⟨_, rfl, hack⟩⟩⟩
  | writeError hp hack => exact ⟨.inl rfl, .inr ⟨hp, .inr ⟨rfl, hack, rfl⟩⟩⟩
  | drained =>
    rw [endDrain_eq]
    exact ⟨.inl rfl, .inl ⟨rfl, rfl⟩⟩
  | endFill | pack | unpack | unpackLast | processError | finish => exact ⟨.inl rfl, .inl ⟨rfl, rfl⟩⟩

end Sys2Proof.Machine
end

section
/-! What an engine step leaves unchanged, register by register (10_state.md section 1). -/
namespace Sys2Proof.Machine
variable {i : Instr} {s t : State}

/-- The entries at and beyond the stored group's length keep their bits (log 9). -/
theorem storeCarry_getElem?_of_le (c : Vector (BitVec 7) 8) {grp : List Nat} (h : grp.length < 8) {a : Nat}
    (ha : grp.length ≤ a) : (storeCarry c grp h).toList[a]? = c.toList[a]? := by
  change (grp.map (BitVec.ofNat 7) ++ c.toList.drop grp.length)[a]? = _
  rw [List.getElem?_append_right (by simpa using ha), List.length_map, List.getElem?_drop, Nat.add_sub_cancel' ha]

namespace EngineStep

theorem config (h : EngineStep i s t) :
    t.ctrl = s.ctrl ∧ t.wrap = s.wrap ∧ t.turns = s.turns ∧ t.readback = s.readback ∧ t.params = s.params := by
  cases h <;> simp

theorem eos (h : EngineStep i s t) : t.eos = s.eos ∨ s.phase = .fill ∧ t.eos = true := by
  cases h with
  | takeEos hp => exact .inr ⟨hp, rfl⟩
  | _ => exact .inl (by simp)

theorem err (h : EngineStep i s t) : t.err = s.err ∨ t.phase = .error := by
  cases h with
  | readError | processError | writeError => exact .inr rfl
  | _ => exact .inl (by simp)

theorem col (h : EngineStep i s t) :
    t.col = s.col ∨ modeOf i = .encode ∧ (s.phase = .drain ∨ s.phase = .finish) := by
  cases h with
  | breakLine hp hm | writeSymbol hp hm => exact .inr ⟨hm, .inl hp⟩
  | lastNewline hp hm => exact .inr ⟨hm, .inr hp⟩
  | _ => exact .inl (by simp)

theorem carry (h : EngineStep i s t) :
    t.carry = s.carry ∧ t.carryCnt = s.carryCnt ∨ modeOf i = .decode ∧ s.phase = .process := by
  cases h with
  | unpack hp hm | unpackLast hp hm => exact .inr ⟨hm, hp⟩
  | _ => exact .inl (by simp)

theorem ilen (h : EngineStep i s t) : t.ilen = s.ilen ∨ s.phase = .fill ∨ s.phase = .drain := by
  cases h with
  | takeByte hp => exact .inr (.inl hp)
  | drained hp => exact .inr (.inr hp)
  | _ => exact .inl (by simp)

theorem olen (h : EngineStep i s t) : t.olen = s.olen ∨ s.phase = .process := by
  cases h with
  | pack hp | unpack hp | unpackLast hp => exact .inr hp
  | _ => exact .inl (by simp)

theorem opos (h : EngineStep i s t) : t.opos = s.opos ∨ s.phase = .process ∨ s.phase = .drain := by
  cases h with
  | pack hp | unpack hp | unpackLast hp => exact .inr (.inl hp)
  | writeSymbol hp | writeByte hp => exact .inr (.inr hp)
  | _ => exact .inl (by simp)

theorem ibuf (h : EngineStep i s t) : ∀ a, s.phase ≠ .fill ∨ a ≠ s.ilen → readCell t.ibuf a = readCell s.ibuf a := by
  intro a ha
  cases h with
  | takeByte hp => exact readCell_writeCell_other _ _ _ _ (ha.resolve_left (not_not_intro hp))
  | _ => simp

theorem obuf (h : EngineStep i s t) :
    ∀ a, s.phase ≠ .process ∨ t.olen ≤ a → readCell t.obuf a = readCell s.obuf a := by
  intro a ha
  cases h with
  | pack hp | unpack hp | unpackLast hp =>
    have hle := ha.resolve_left (not_not_intro hp)
    exact readCell_writeCells_outside _ _ _ _ (.inr (by simpa using hle))
  | _ => simp

theorem carry_beyond (h : EngineStep i s t) : ∀ a, t.carryCnt ≤ a → t.carry.toList[a]? = s.carry.toList[a]? := by
  intro a ha
  cases h with
  | unpack _ _ _ _ hg => exact storeCarry_getElem?_of_le s.carry hg ha
  | _ => simp

end EngineStep

/-- Settles O58: register by register, from the constructors of `EngineStep`. -/
theorem operationFrame : Obligations.OperationFrame := by
  intro i s t hexec
  have h := engineStep_of_exec hexec
  obtain ⟨hctrl, hwrap, hturns, hread, hparams⟩ := h.config
  exact ⟨hctrl, hwrap, hturns, hread, hparams, h.eos, h.err, h.col, h.carry, h.ilen, h.olen, h.opos, h.ibuf, h.obuf,
    h.carry_beyond⟩

end Sys2Proof.Machine
end

section
/-! What every step keeps (10_state.md R24, R30, R34, R35; 44_stream_engine.md R174, R189; 45_line_wrapper.md R207): a
property is kept by every step if the host's commands and the engine steps of the operations keep it. -/
namespace Sys2Proof.Machine
variable {i : Instr} {c : HostCmd} {s t : State}

/-- The two kinds of step. -/
theorem step_keeps {P : State → Prop} (hturn : ∀ s, P s → P (dropTurn s)) (hcmd : ∀ c s, P s → P (hostCommand c s))
    (hexec : ∀ i s t, decode s.ctrl = .ok i → exec i s = .next t → P s → P t) (h : step s = .next t) (hs : P s) :
    P t := by
  obtain ⟨-, ⟨c, r, -, rfl⟩ | ⟨i, u, ⟨rfl, -⟩ | ⟨rfl, -⟩, -, hdec, hnext⟩⟩ := step_cases h
  · exact hcmd c _ (hturn s hs)
  · exact hexec i _ t hdec hnext hs
  · exact hexec i _ t hdec hnext (hturn s hs)

/-- What a host command can do (44_stream_engine.md R172, R190; 10_state.md R29). -/
theorem hostCommand_cases (c : HostCmd) (s : State) :
    hostCommand c s = { s with readback := (hostCommand c s).readback } ∨
    (s.phase = .idle ∧ hostCommand c s = { s with ctrl := (hostCommand c s).ctrl, wrap := (hostCommand c s).wrap }) ∨
    (s.phase = .idle ∧ hostCommand c s = raise .unsupportedScheme s) ∨
    (s.phase = .idle ∧ ctrlReserved s.ctrl = 0#3 ∧ hostCommand c s = beginSession s) ∨
    (c = .reset ∧ hostCommand c s = resetEngine s) := by
  cases c with
  | cfgWrite r v =>
    rcases cfgWrite_cases r v s with ⟨-, h⟩ | ⟨hp, -, h⟩ | ⟨hp, -, h⟩ <;> rw [hostCommand, h]
    · exact .inl rfl
    · exact .inr (.inl ⟨hp, rfl⟩)
    · exact .inr (.inl ⟨hp, rfl⟩)
  | start =>
    rcases startSession_cases s with ⟨-, h⟩ | ⟨hp, -, h⟩ | ⟨hp, hlegal, h⟩ <;> rw [hostCommand, h]
    · exact .inl rfl
    · exact .inr (.inr (.inl ⟨hp, rfl⟩))
    · exact .inr (.inr (.inr (.inl ⟨hp, hlegal, rfl⟩)))
  | reset => exact .inr (.inr (.inr (.inr ⟨rfl, rfl⟩)))
  | read r => exact .inl rfl

/-! The output stream and the configuration. -/

/-- Settles O28: a command leaves the output stream alone, and an engine step appends a byte or none. -/
theorem outputIsNeverRetracted : Obligations.OutputIsNeverRetracted := by
  intro s t h
  obtain ⟨-, ⟨c, r, -, rfl⟩ | ⟨i, u, hturn, -, -, hexec⟩⟩ := step_cases h
  · exact .inl (by simp)
  · have hu : u.output = s.output := by rw [(engineTurn_state hturn).1]
    obtain ⟨-, ⟨hout, -⟩ | ⟨-, ⟨b, hout, -⟩ | ⟨hout, -⟩⟩⟩ := streamsTouchedOnlyInTheirPhases i u t hexec
    · exact .inl (hout.trans hu)
    · exact .inr ⟨b, hu ▸ hout⟩
    · exact .inl (hout.trans hu)

/-- Outside IDLE every command but RESET leaves CTRL and WRAP alone (10_state.md R29). -/
theorem hostCommand_config (hp : s.phase ≠ .idle) (hc : c ≠ .reset) :
    (hostCommand c s).ctrl = s.ctrl ∧ (hostCommand c s).wrap = s.wrap := by
  rcases hostCommand_cases c s with h | ⟨hidle, -⟩ | ⟨hidle, -⟩ | ⟨hidle, -⟩ | ⟨hreset, -⟩
  · rw [h]; exact ⟨rfl, rfl⟩
  · exact absurd hidle hp
  · exact absurd hidle hp
  · exact absurd hidle hp
  · exact absurd hreset hc

/-- Settles O57: no operation writes CTRL or WRAP, and of the commands only CfgWrite in IDLE and RESET do. -/
theorem configurationStableInSession : Obligations.ConfigurationStableInSession := by
  intro s t h hp
  obtain ⟨-, ⟨c, r, hdue, rfl⟩ | ⟨i, u, hturn, -, -, hexec⟩⟩ := step_cases h
  · by_cases hc : c = .reset
    · exact .inr ⟨r, hc ▸ hdue⟩
    · exact .inl (hostCommand_config (s := dropTurn s) hp hc)
  · obtain ⟨hctrl, hwrap, -⟩ := (engineStep_of_exec hexec).config
    rw [(engineTurn_state hturn).1] at hctrl hwrap
    exact .inl ⟨hctrl, hwrap⟩

/-! ERR. -/

/-- An error entry never names MemoryExhausted (60_exceptions.md R213). -/
theorem ErrorEntry.err_ne_memoryExhausted (h : ErrorEntry i s t) :
    t.phase = .error ∧ t.err.isSome ∧ t.err ≠ some .memoryExhausted := by
  cases h with
  | readError | writeError | misalignedInput | misalignedText | invalidSymbol => simp

/-- A command leaves ERR and PHASE alone, clears ERR, or is a START that names UnsupportedScheme. -/
theorem hostCommand_err (c : HostCmd) (s : State) :
    ((hostCommand c s).err = s.err ∧ (hostCommand c s).phase = s.phase) ∨
    ((hostCommand c s).err = none ∧ (hostCommand c s).phase ≠ .error) ∨
    hostCommand c s = raise .unsupportedScheme s := by
  rcases hostCommand_cases c s with h | ⟨-, h⟩ | ⟨-, h⟩ | ⟨-, -, h⟩ | ⟨-, h⟩
  · rw [h]; exact .inl ⟨rfl, rfl⟩
  · rw [h]; exact .inl ⟨rfl, rfl⟩
  · exact .inr (.inr h)
  · exact .inr (.inl (by simp [h]))
  · exact .inr (.inl (by simp [h]))

/-- Settles O26: neither an error entry of an operation nor that of START names MemoryExhausted. -/
theorem memoryExhaustedNeverRaised : Obligations.MemoryExhaustedNeverRaised := by
  intro s t h
  contrapose!
  refine step_keeps (P := fun u => u.err ≠ some .memoryExhausted) (fun _ hs => hs) (fun c u hu => ?_)
    (fun i u v _ hexec hu => ?_) h
  · obtain ⟨herr, -⟩ | ⟨herr, -⟩ | hraise := hostCommand_err c u
    · exact herr ▸ hu
    · simp [herr]
    · simp [hraise]
  · obtain hentry | ⟨-, hkeep⟩ := exec_errorEntry_or_keeps hexec
    · exact hentry.err_ne_memoryExhausted.2.2
    · exact hkeep ▸ hu

theorem ErrorInv.hostCommand (hs : ErrorInv s) (c : HostCmd) : ErrorInv (hostCommand c s) := by
  obtain ⟨herr, hphase⟩ | ⟨herr, hphase⟩ | hraise := hostCommand_err c s
  · exact ⟨by rw [herr, hphase]; exact hs.onlyInError, herr ▸ hs.notExhausted⟩
  · exact ⟨by simp [herr, hphase], by simp [herr]⟩
  · rw [hraise]
    exact ⟨by simp, by simp⟩

theorem ErrorInv.exec (hs : ErrorInv s) (h : exec i s = .next t) : ErrorInv t := by
  have hp : s.phase ≠ .error := fun hp => exec_ne_next_of_error hp i t h
  obtain hentry | ⟨hphase, hkeep⟩ := exec_errorEntry_or_keeps h
  · obtain ⟨hphase, hsome, hkind⟩ := hentry.err_ne_memoryExhausted
    exact ⟨iff_of_true hsome hphase, hkind⟩
  · have hnone : ¬ s.err.isSome := fun hsome => hp (hs.onlyInError.1 hsome)
    exact ⟨iff_of_false (hkeep ▸ hnone) hphase, hkeep ▸ hs.notExhausted⟩

/-- Settles O56: ERR and PHASE are written together, by the error entries, START and RESET. -/
theorem stepKeepsErrOnlyInError : Obligations.StepKeepsErrOnlyInError := fun _ _ hs h =>
  step_keeps (P := ErrorInv) (fun _ hs => ⟨hs.onlyInError, hs.notExhausted⟩) (fun c _ hs => hs.hostCommand c)
    (fun _ _ _ _ hexec hs => hs.exec hexec) h hs

/-! The buffers. -/

theorem BuffersCanonical.hostCommand (hs : BuffersCanonical s) (c : HostCmd) : BuffersCanonical (hostCommand c s) := by
  unfold BuffersCanonical at *
  cases c with
  | cfgWrite | start => simpa [Machine.hostCommand] using hs
  | reset => exact reset_buffers_wf
  | read => exact hs

theorem BuffersCanonical.exec (hs : BuffersCanonical s) (h : exec i s = .next t) : BuffersCanonical t := by
  obtain ⟨hi, ho⟩ := hs
  cases engineStep_of_exec h with
  | takeByte => exact ⟨writeCell_wf _ _ _ hi, ho⟩
  | pack | unpack | unpackLast => exact ⟨hi, writeCells_wf _ _ _ ho⟩
  | _ => exact ⟨by simpa using hi, by simpa using ho⟩

/-- Settles O54: FILL and PROCESS write a buffer by `writeCell` and `writeCells`, which keep the form, and RESET empties
both. -/
theorem stepKeepsBuffersCanonical : Obligations.StepKeepsBuffersCanonical := fun _ _ hs h =>
  step_keeps (P := BuffersCanonical) (fun _ hs => hs) (fun c _ hs => hs.hostCommand c)
    (fun _ _ _ _ hexec hs => hs.exec hexec) h hs

/-! The column. -/

theorem wrapEnabled_iff : wrapEnabled s = true ↔ s.wrap ≠ 0#32 := by simp [wrapEnabled]

theorem lineFull_iff : lineFull s = true ↔ s.wrap ≠ 0#32 ∧ s.col = s.wrap := by simp [lineFull, wrapEnabled]

theorem countSymbol_of_wrap (h : s.wrap ≠ 0#32) : countSymbol s = { s with col := s.col + 1#32 } :=
  if_pos (wrapEnabled_iff.2 h)

theorem countSymbol_of_no_wrap (h : s.wrap = 0#32) : countSymbol s = s := if_neg (by simp [wrapEnabled, h])

/-- COL is kept, cleared, or counts one symbol of a line with room. -/
theorem EngineStep.column (h : EngineStep i s t) :
    t.col = s.col ∨ t.col = 0#32 ∨
      modeOf i = .encode ∧ s.wrap ≠ 0#32 ∧ lineFull s = false ∧ t.col = s.col + 1#32 := by
  cases h with
  | breakLine | lastNewline => exact .inr (.inl rfl)
  | @writeSymbol b rest _ hm _ hfull =>
    by_cases hw : s.wrap = 0#32
    · have hcol := congrArg State.col (countSymbol_of_no_wrap (s := advanceOpos (acceptByte b rest s)) hw)
      exact .inl hcol
    · have hcol := congrArg State.col (countSymbol_of_wrap (s := advanceOpos (acceptByte b rest s)) hw)
      exact .inr (.inr ⟨hm, hw, hfull, hcol⟩)
  | _ => exact .inl (by simp)

theorem EngineStep.phase_ne_idle (h : EngineStep i s t) : t.phase ≠ .idle := by
  cases h with
  | takeByte hp | takeEos hp | breakLine hp | writeSymbol hp | writeByte hp => simp [hp]
  | drained => cases he : s.eos <;> simp [he]
  | _ => simp

/-- A line with room has room for one symbol more, and the counter does not overflow (45_line_wrapper.md R207). -/
theorem col_succ_le_wrap (hle : s.col.toNat ≤ s.wrap.toNat) (hw : s.wrap ≠ 0#32) (hroom : lineFull s = false) :
    (s.col + 1#32).toNat ≤ s.wrap.toNat := by
  have hne : s.col ≠ s.wrap := fun hcol => Bool.false_ne_true (hroom.symm.trans (lineFull_iff.2 ⟨hw, hcol⟩))
  have hne' : s.col.toNat ≠ s.wrap.toNat := fun h => hne (BitVec.eq_of_toNat_eq h)
  bv_omega

theorem ColumnInv.of_col_zero (h : s.col = 0#32) : ColumnInv s := ⟨by simp [h], fun _ => h, fun _ => h⟩

theorem ColumnInv.hostCommand (hs : ColumnInv s) (c : HostCmd) : ColumnInv (hostCommand c s) := by
  rcases hostCommand_cases c s with h | ⟨hp, h⟩ | ⟨hp, h⟩ | ⟨-, -, h⟩ | ⟨-, h⟩ <;> rw [h]
  · exact ⟨hs.within, hs.atIdle, hs.onDecode⟩
  · exact .of_col_zero (hs.atIdle hp)
  · exact .of_col_zero (hs.atIdle hp)
  · exact .of_col_zero rfl
  · exact .of_col_zero rfl

theorem ColumnInv.exec (hs : ColumnInv s) (hdec : decode s.ctrl = .ok i) (h : exec i s = .next t) : ColumnInv t := by
  have hstep := engineStep_of_exec h
  obtain ⟨hctrl, hwrap, -⟩ := hstep.config
  obtain ⟨-, hmode, -⟩ := decode_fields _ _ hdec
  have hidle : ¬ t.phase = .idle := hstep.phase_ne_idle
  rcases hstep.column with hcol | hcol | ⟨hm, hw, hroom, hcol⟩
  · exact ⟨by rw [hcol, hwrap]; exact hs.within, by simp [hidle], by rw [hctrl, hcol]; exact hs.onDecode⟩
  · exact .of_col_zero hcol
  · exact ⟨by rw [hcol, hwrap]; exact col_succ_le_wrap hs.within hw hroom, by simp [hidle],
      by rw [hctrl, ← hmode, hm]; exact nofun⟩

/-- Settles O55: only a symbol written on a line with room moves COL, by one. -/
theorem stepKeepsColumnWithinWrap : Obligations.StepKeepsColumnWithinWrap := fun _ _ hs h =>
  step_keeps (P := ColumnInv) (fun _ hs => ⟨hs.within, hs.atIdle, hs.onDecode⟩) (fun c _ hs => hs.hostCommand c)
    (fun _ _ _ hdec hexec hs => hs.exec hdec hexec) h hs

end Sys2Proof.Machine
end

section
/-! The invariant (10_state.md R24, R34, R35; 44_stream_engine.md R174, R180, R181, R189): the bounds of the buffers and
what each phase says of the registers are kept with the rest. -/
namespace Sys2Proof.Machine
variable {i : Instr} {c : HostCmd} {s t : State}

/-! The bounds. -/

theorem written_zero (m : Memory) : Written m 0 := fun _ h => absurd h (Nat.not_lt_zero _)

theorem written_writeCell {m : Memory} {n : Nat} (h : Written m n) (b : Byte) : Written (writeCell m n b) (n + 1) := by
  intro j hj
  rw [readCell_writeCell]
  split
  · rfl
  · exact h j (by omega)

theorem written_writeCells (m : Memory) (bs : List Byte) : Written (writeCells m 0 bs) bs.length := by
  intro j hj
  have hread := readCell_writeCells_inside m 0 j bs hj
  rw [Nat.zero_add] at hread
  simp [hread, hj]

/-- The bounds say nothing of the registers that may differ here. -/
theorem BoundsInv.of_kept (hs : BoundsInv s)
    (h : t = { s with phase := t.phase, eos := t.eos, err := t.err, col := t.col, input := t.input, acks := t.acks,
                      output := t.output, turns := t.turns, readback := t.readback }) : BoundsInv t := by
  rw [h]
  exact ⟨hs.ilen, hs.opos, hs.olen, hs.carryCnt, hs.ibuf, hs.obuf, hs.onEncode⟩

/-- Before a session every length is 0 (44_stream_engine.md R172). -/
theorem BoundsInv.of_empty (hi : s.ilen = 0) (ho : s.olen = 0) (hpos : s.opos = 0) (hc : s.carryCnt = 0) :
    BoundsInv s where
  ilen := by simp [hi]
  opos := by simp [hpos]
  olen := by simp [ho]
  carryCnt := hc ▸ groupSymbols_pos _
  ibuf := hi ▸ written_zero _
  obuf := ho ▸ written_zero _
  onEncode := fun _ => hc

theorem BoundsInv.hostCommand (hs : BoundsInv s) (hp : PhaseInv s) (c : HostCmd) : BoundsInv (hostCommand c s) := by
  rcases hostCommand_cases c s with h | ⟨hidle, h⟩ | ⟨-, h⟩ | ⟨-, -, h⟩ | ⟨-, h⟩ <;> rw [h]
  · exact hs.of_kept rfl
  · obtain ⟨-, hi, ho, hpos, hc⟩ := hp.idle hidle
    exact .of_empty hi ho hpos hc
  · exact hs.of_kept rfl
  · exact .of_empty rfl rfl rfl rfl
  · exact .of_empty rfl rfl rfl rfl

/-- The commit of PROCESS, whatever the carry holds then (R175, R176). -/
theorem BoundsInv.commitOutput {out : List Byte} (hs : BoundsInv s) (hfit : out.length ≤ obufCap s.params) :
    BoundsInv (commitOutput out s) :=
  ⟨hs.ilen, Nat.zero_le _, hfit, hs.carryCnt, hs.ibuf, written_writeCells _ _, hs.onEncode⟩

theorem BoundsInv.exec (hs : BoundsInv s) (hdec : decode s.ctrl = .ok i) (h : exec i s = .next t) : BoundsInv t := by
  obtain ⟨-, hmode, hscheme, -⟩ := decode_fields _ _ hdec
  have hnotEncode (hm : modeOf i = .decode) : ctrlMode s.ctrl ≠ .encode := by simp [← hmode, hm]
  cases engineStep_of_exec h with
  | takeByte _ hl =>
    exact ⟨hmode ▸ hl, hs.opos, hs.olen, hs.carryCnt, written_writeCell hs.ibuf _, hs.obuf, hs.onEncode⟩
  | pack _ _ hfit => exact hs.commitOutput hfit
  | unpack _ hm _ hscan hg hfit =>
    have hleft := scan_left_length (carriedGroup_length_lt (hscheme ▸ hs.carryCnt)) hscan
    exact ⟨hs.ilen, Nat.zero_le _, hfit, hscheme ▸ hleft, hs.ibuf, written_writeCells _ _,
      fun hm' => absurd hm' (hnotEncode hm)⟩
  | unpackLast _ hm hfit =>
    exact ⟨hs.ilen, Nat.zero_le _, hfit, groupSymbols_pos _, hs.ibuf, written_writeCells _ _, fun _ => rfl⟩
  | writeSymbol _ _ hlt =>
    rw [countSymbol_eq]
    exact ⟨hs.ilen, hlt, hs.olen, hs.carryCnt, hs.ibuf, hs.obuf, hs.onEncode⟩
  | writeByte _ _ hlt => exact ⟨hs.ilen, hlt, hs.olen, hs.carryCnt, hs.ibuf, hs.obuf, hs.onEncode⟩
  | drained =>
    cases he : s.eos with
    | true =>
      rw [endDrain_of_eos he]
      exact hs.of_kept rfl
    | false =>
      rw [endDrain_of_not_eos he]
      exact ⟨Nat.zero_le _, hs.opos, hs.olen, hs.carryCnt, written_zero _, hs.obuf, hs.onEncode⟩
  | takeEos | readError | endFill | processError | breakLine | writeError | lastNewline | finish =>
    exact hs.of_kept rfl

/-! What the invariant asks of a state, phase by phase. -/

namespace PhaseInv

theorem of_idle (hp : s.phase = .idle)
    (h : s.eos = false ∧ s.ilen = 0 ∧ s.olen = 0 ∧ s.opos = 0 ∧ s.carryCnt = 0) : PhaseInv s :=
  ⟨by simp [hp, sessionRunning], fun _ => h, by simp [hp], by simp [hp], by simp [hp], by simp [hp]⟩

theorem of_fill (hp : s.phase = .fill) (hlegal : ctrlReserved s.ctrl = 0#3) : PhaseInv s :=
  ⟨fun _ => hlegal, by simp [hp], by simp [hp], by simp [hp], by simp [hp], by simp [hp]⟩

theorem of_process (hp : s.phase = .process) (hlegal : ctrlReserved s.ctrl = 0#3)
    (h : s.eos = false → s.ilen = inCap s.params (ctrlMode s.ctrl)) : PhaseInv s :=
  ⟨fun _ => hlegal, by simp [hp], fun _ => h, by simp [hp], by simp [hp], by simp [hp]⟩

theorem of_drain (hp : s.phase = .drain) (hlegal : ctrlReserved s.ctrl = 0#3) (h : s.eos = true → s.carryCnt = 0) :
    PhaseInv s :=
  ⟨fun _ => hlegal, by simp [hp], by simp [hp], fun _ => h, by simp [hp], by simp [hp]⟩

theorem of_finish (hp : s.phase = .finish) (hlegal : ctrlReserved s.ctrl = 0#3)
    (h : s.eos = true ∧ s.opos = s.olen ∧ s.carryCnt = 0) : PhaseInv s :=
  ⟨fun _ => hlegal, by simp [hp], by simp [hp], by simp [hp], fun _ => h, by simp [hp]⟩

theorem of_done (hp : s.phase = .done) (hlegal : ctrlReserved s.ctrl = 0#3)
    (h : s.eos = true ∧ s.opos = s.olen ∧ s.carryCnt = 0) (hcol : ctrlMode s.ctrl = .encode → s.col = 0#32) :
    PhaseInv s :=
  ⟨fun _ => hlegal, by simp [hp], by simp [hp], by simp [hp], fun _ => h, fun _ => hcol⟩

theorem of_error (hp : s.phase = .error) : PhaseInv s :=
  ⟨by simp [hp, sessionRunning], by simp [hp], by simp [hp], by simp [hp], by simp [hp], by simp [hp]⟩

end PhaseInv

theorem PhaseInv.hostCommand (hs : PhaseInv s) (c : HostCmd) : PhaseInv (hostCommand c s) := by
  rcases hostCommand_cases c s with h | ⟨hidle, h⟩ | ⟨-, h⟩ | ⟨-, hlegal, h⟩ | ⟨-, h⟩ <;> rw [h]
  · exact ⟨hs.legal, hs.idle, hs.process, hs.drain, hs.finish, hs.done⟩
  · exact .of_idle hidle (hs.idle hidle)
  · exact .of_error rfl
  · exact .of_fill rfl hlegal
  · exact .of_idle rfl ⟨rfl, rfl, rfl, rfl, rfl⟩

/-- With wrapping disabled COL is 0 (45_line_wrapper.md R202). -/
theorem ColumnInv.col_zero_of_not_wrapEnabled (hs : ColumnInv s) (hw : wrapEnabled s = false) : s.col = 0#32 := by
  have hwrap : s.wrap = 0#32 := by simpa [wrapEnabled] using hw
  have hle := hs.within
  rw [hwrap] at hle
  bv_omega

theorem PhaseInv.exec (hs : PhaseInv s) (hcol : ColumnInv s) (hb : BoundsInv s) (hdec : decode s.ctrl = .ok i)
    (h : exec i s = .next t) : PhaseInv t := by
  obtain ⟨hlegal, hmode, -, -⟩ := decode_fields _ _ hdec
  cases engineStep_of_exec h with
  | takeByte hp | takeEos hp => exact .of_fill hp hlegal
  | endFill _ hend => exact .of_process rfl hlegal fun he => hmode ▸ hend.resolve_right (by simpa using he)
  | pack _ hm => exact .of_drain rfl hlegal fun _ => hb.onEncode (hmode ▸ hm)
  | unpack _ _ he => exact .of_drain rfl hlegal fun he' => absurd (he.symm.trans he') Bool.false_ne_true
  | unpackLast => exact .of_drain rfl hlegal fun _ => rfl
  | breakLine hp | writeByte hp => exact .of_drain hp hlegal (hs.drain hp)
  | writeSymbol hp =>
    rw [countSymbol_eq]
    exact .of_drain hp hlegal (hs.drain hp)
  | drained hp hend =>
    cases he : s.eos with
    | true =>
      rw [endDrain_of_eos he]
      exact .of_finish rfl hlegal ⟨he, hend, hs.drain hp he⟩
    | false =>
      rw [endDrain_of_not_eos he]
      exact .of_fill rfl hlegal
  | lastNewline hp => exact .of_done rfl hlegal (hs.finish (.inl hp)) fun _ => rfl
  | finish hp hend =>
    refine .of_done rfl hlegal (hs.finish (.inl hp)) fun hm => ?_
    obtain hdecode | hw | hzero := hend
    · rw [hmode] at hdecode
      cases hm.symm.trans hdecode
    · exact hcol.col_zero_of_not_wrapEnabled hw
    · exact hzero
  | readError | processError | writeError => exact .of_error rfl

/-! The invariant as a whole. -/

theorem Inv.dropTurn (hs : Inv s) : Inv (dropTurn s) where
  params := hs.params
  canonical := hs.canonical
  column := ⟨hs.column.within, hs.column.atIdle, hs.column.onDecode⟩
  error := ⟨hs.error.onlyInError, hs.error.notExhausted⟩
  bounds := hs.bounds.of_kept rfl
  phase := ⟨hs.phase.legal, hs.phase.idle, hs.phase.process, hs.phase.drain, hs.phase.finish, hs.phase.done⟩

theorem Inv.hostCommand (hs : Inv s) (c : HostCmd) : Inv (hostCommand c s) where
  params := by simpa using hs.params
  canonical := hs.canonical.hostCommand c
  column := hs.column.hostCommand c
  error := hs.error.hostCommand c
  bounds := hs.bounds.hostCommand hs.phase c
  phase := hs.phase.hostCommand c

theorem Inv.exec (hs : Inv s) (hdec : decode s.ctrl = .ok i) (h : exec i s = .next t) : Inv t where
  params := by
    obtain ⟨-, -, -, -, hparams⟩ := (engineStep_of_exec h).config
    exact hparams ▸ hs.params
  canonical := hs.canonical.exec h
  column := hs.column.exec hdec h
  error := hs.error.exec h
  bounds := hs.bounds.exec hdec h
  phase := hs.phase.exec hs.column hs.bounds hdec h

/-- Settles O52: the host's commands and the engine steps of every operation keep each part of the invariant. -/
theorem stepKeepsInvariant : Obligations.StepKeepsInvariant := fun _ _ hs h =>
  step_keeps (P := Inv) (fun _ hs => hs.dropTurn) (fun c _ hs => hs.hostCommand c)
    (fun _ _ _ hdec hexec hs => hs.exec hdec hexec) h hs

/-- Settles O51: the reset state is in IDLE with every length 0, COL 0 and no error. -/
theorem invariantHoldsAtReset : Obligations.InvariantHoldsAtReset where
  params := by decide
  canonical := reset_buffers_wf
  column := .of_col_zero rfl
  error := ⟨by decide, by decide⟩
  bounds := .of_empty rfl rfl rfl rfl
  phase := .of_idle rfl ⟨rfl, rfl, rfl, rfl, rfl⟩

end Sys2Proof.Machine
end

section
/-! The machine's turn (44_stream_engine.md R171, R190): the command that is due, or the engine step of the operation
CTRL selects. -/
namespace Sys2Proof.Machine
variable {i : Instr} {c : HostCmd} {s u : State} {rest : List HostTurn} {x : HostTurn}

/-! The commands. -/

theorem dropTurn_eq (h : s.turns = x :: rest) : dropTurn s = { s with turns := rest } := by rw [dropTurn, h]; rfl

theorem step_of_command (hw : s.params.wf = true) (h : s.turns = .cmd c :: rest) :
    step s = .next (hostCommand c { s with turns := rest }) := by
  rw [step_of_due hw h, dropTurn_eq h]

theorem step_of_illegal_params (hw : s.params.wf = false) : step s = .refused .illegalParameters := by
  rw [step, fetch, hw, if_neg Bool.false_ne_true]

/-- The parameters a model must reject (70_reset_and_hazards.md R245). -/
theorem params_wf_eq_false_iff {p : Params} :
    p.wf = false ↔ p.encChunk = 0 ∨ p.encChunk % 60 ≠ 0 ∨ p.decChunk = 0 := by
  simp only [Params.wf, Bool.and_eq_false_iff, decide_eq_false_iff_not]
  omega

/-- Settles O4: `fetch` looks at the parameters first and at the turn next. -/
theorem stepTakesDueHostCommand : Obligations.StepTakesDueHostCommand := fun _ =>
  ⟨fun hw _ _ hdue => step_of_command hw hdue, fun hbad => step_of_illegal_params (params_wf_eq_false_iff.2 hbad)⟩

/-- Settles O6: the updates of `resetEngine`. -/
theorem resetRestoresResetValues : Obligations.ResetRestoresResetValues := fun _ _ hw hdue =>
  ⟨_, step_of_command hw hdue, rfl, rfl, rfl, rfl, rfl, rfl, rfl, rfl, rfl, rfl, rfl, rfl, rfl, rfl, rfl, rfl⟩

/-- Settles O7: the fields of `State.reset`. -/
theorem resetStateRegisters : Obligations.ResetStateRegisters := by
  unfold Obligations.ResetStateRegisters
  and_intros <;> rfl

/-- Settles O8: a CfgWrite in IDLE keeps the low bits of the value by `BitVec.ofNat`. -/
theorem cfgWriteOnlyInIdle : Obligations.CfgWriteOnlyInIdle := by
  intro s v rest hw
  refine ⟨fun hdue hp => ⟨BitVec.ofNat 8 v, ?_, BitVec.toNat_ofNat v 8⟩,
    fun hdue hp => ⟨BitVec.ofNat 32 v, ?_, BitVec.toNat_ofNat v 32⟩, fun r hdue hp => ?_⟩ <;>
    rw [step_of_command hw hdue, hostCommand]
  · simp [cfgWrite, hp]
  · simp [cfgWrite, hp]
  · rw [cfgWrite_of_not_idle r v { s with turns := rest } hp]

/-- Settles O9: the three cases of `startSession`. -/
theorem startBeginsSessionOrRaises : Obligations.StartBeginsSessionOrRaises := by
  intro s rest hw hdue
  rw [step_of_command hw hdue, hostCommand]
  refine ⟨fun hp hlegal => ?_, fun hp hres => ?_, fun hp => ?_⟩
  · rw [startSession_of_legal { s with turns := rest } hp hlegal]; rfl
  · rw [startSession_of_reserved { s with turns := rest } hp hres]; rfl
  · rw [startSession_of_not_idle { s with turns := rest } hp]

/-- The fields of a STATUS word are the codes it is put together from (10_state.md R31). -/
theorem status_fields : ∀ (e : BitVec 3) (b : Bool) (p : BitVec 3),
    let v := (0#1 ++ e ++ BitVec.ofBool b ++ p).setWidth 32
    v.extractLsb' 0 3 = p ∧ v.getLsbD 3 = b ∧ v.extractLsb' 4 3 = e ∧ v.extractLsb' 7 25 = 0#25 := by decide

/-- Settles O10: `hostRead` gives the register's value, and STATUS is put together from the codes of its fields. -/
theorem hostReadHasNoSideEffect : Obligations.HostReadHasNoSideEffect := by
  intro s r rest hw hdue
  refine ⟨hostRead r s, step_of_command hw hdue, ?_, ?_, ?_⟩
  · rintro rfl
    exact BitVec.toNat_setWidth_of_le (by decide)
  · rintro rfl; rfl
  · rintro rfl
    obtain ⟨hphase, heos, herr, hzero⟩ := status_fields (errCode s.err) s.eos (phaseCode s.phase)
    refine ⟨(congrArg _ hphase).trans ?_, heos, (congrArg _ herr).trans ?_, hzero⟩
    · cases s.phase <;> rfl
    · rcases s.err with - | k
      · rfl
      · cases k <;> rfl

/-- The commands of a session line begin the session from the reset registers, with the line's word in CTRL and its
width in WRAP (70_reset_and_hazards.md R243). -/
theorem bootCommands_foldl (l : SessionLine) (s : State) (h : l.wf = true) :
    ∃ w : Word, w.toNat = l.wrap.getD 76 ∧ (bootCommands l).foldl (fun u c => hostCommand c u) s =
      beginSession { resetEngine s with ctrl := encode l.op, wrap := w } := by
  obtain ⟨hlegal, -⟩ := decode_fields _ _ (decode_encode l.op)
  have hstart (w : Word) : startSession { resetEngine s with ctrl := encode l.op, wrap := w } =
      beginSession { resetEngine s with ctrl := encode l.op, wrap := w } := startSession_of_legal _ rfl hlegal
  have hword : BitVec.ofNat 8 (encode l.op).toNat = encode l.op := by simp
  cases hw : l.wrap with
  | some n =>
    have hn : n < 2 ^ 32 := by simpa [SessionLine.wf, hw] using h
    refine ⟨BitVec.ofNat 32 n, by simp; omega, ?_⟩
    rw [← hstart, ← hword]
    simp [bootCommands, hw, hostCommand, cfgWrite]
  | none =>
    refine ⟨wrapDefault, rfl, ?_⟩
    rw [← hstart, ← hword]
    cases hm : modeOf l.op with
    | encode => simp [bootCommands, hw, hm, hostCommand, cfgWrite]
    | decode => simp [bootCommands, hw, hm, hostCommand, cfgWrite]

/-- Settles O11: the commands end in `beginSession`. -/
theorem bootSequenceStartsSession : Obligations.BootSequenceStartsSession := by
  intro l s hl
  obtain ⟨w, hw, hboot⟩ := bootCommands_foldl l s hl
  exact ⟨_, hboot, rfl, decode_encode l.op, hw, rfl, rfl, rfl, rfl, rfl, rfl, rfl, rfl, rfl⟩

/-! The engine's turn. -/

/-- With no command due, the step is the engine's turn, in `s` or in `s` without the turn left to the engine. -/
theorem fetch_of_turn (hw : s.params.wf = true)
    (hturn : u = s ∧ s.turns = [] ∨ u = dropTurn s ∧ ∃ r, s.turns = .engine :: r) : fetch s = engineTurn u := by
  obtain ⟨rfl, h⟩ | ⟨rfl, r, h⟩ := hturn
  · rw [fetch, if_pos hw, h]
  · rw [fetch, if_pos hw, h]

theorem engineTurn_of_running (hrun : sessionRunning u = true) (hdec : decode u.ctrl = .ok i) :
    engineTurn u = .run i u := by
  cases hp : u.phase with
  | idle | done | error => simp [sessionRunning, hp] at hrun
  | fill | process | drain | finish => simp only [engineTurn, hp, hdec]

theorem step_of_running (hw : s.params.wf = true)
    (hturn : u = s ∧ s.turns = [] ∨ u = dropTurn s ∧ ∃ r, s.turns = .engine :: r) (hrun : sessionRunning u = true)
    (hdec : decode u.ctrl = .ok i) : step s = exec i u := by
  rw [step, fetch_of_turn hw hturn, engineTurn_of_running hrun hdec]

/-- Settles O3: in a phase of a session the engine's turn is the step of the operation read from CTRL. -/
theorem stepRunsSelectedOperation : Obligations.StepRunsSelectedOperation := by
  intro s i hw hrun hdec
  refine ⟨fun h => step_of_running hw (.inl ⟨rfl, h⟩) hrun hdec, fun rest h => ?_⟩
  rw [step_of_running (u := dropTurn s) hw (.inr ⟨rfl, rest, h⟩) hrun hdec, dropTurn_eq h]

section Stopped
variable (hw : s.params.wf = true) (hturn : u = s ∧ s.turns = [] ∨ u = dropTurn s ∧ ∃ r, s.turns = .engine :: r)
include hw hturn

theorem step_of_idle (hp : u.phase = .idle) : step s = .fault .waitingForStart := by
  rw [step, fetch_of_turn hw hturn, engineTurn, hp]

theorem step_of_done (hp : u.phase = .done) : step s = .fault .sessionDone := by
  rw [step, fetch_of_turn hw hturn, engineTurn, hp]

theorem step_of_error (hp : u.phase = .error) : step s = .fault .sessionError := by
  rw [step, fetch_of_turn hw hturn, engineTurn, hp]

end Stopped

end Sys2Proof.Machine
end

section
/-! The steps of FILL, DRAIN and FINISH by the host's answer (44_stream_engine.md R173, R174, R179, R181), and the stops
where there is none (R188). -/
namespace Sys2Proof.Machine
variable {i : Instr} {s : State} {b : Byte} {cap : Nat} {onOk : State → State}

/-! FILL. -/

section Fill
variable {rest : List InItem} (hl : s.ilen < cap) (he : s.eos = false)
include hl he

theorem fillStep_of_byte (hin : s.input = .byte b :: rest) :
    fillStep cap s = .next (pushByte b (consumeItem rest s)) := by
  rw [fillStep, if_pos ⟨hl, he⟩, hin]

theorem fillStep_of_eos (hin : s.input = .eos :: rest) : fillStep cap s = .next (setEos (consumeItem rest s)) := by
  rw [fillStep, if_pos ⟨hl, he⟩, hin]

theorem fillStep_of_unanswered (hin : s.input = []) : fillStep cap s = .fault .blockedInRead := by
  rw [fillStep, if_pos ⟨hl, he⟩, hin]

end Fill

theorem fillStep_of_end (h : s.ilen = cap ∨ s.eos = true) : fillStep cap s = .next (enterPhase .process s) := by
  rw [fillStep, if_neg, if_pos h]
  rintro ⟨hl, he⟩
  exact h.elim hl.ne (by simp [he])

/-- Settles O12: every operation fills by `fillStep`, with the capacity of its mode. -/
theorem fillTakesOneItemOrEnds : Obligations.FillTakesOneItemOrEnds := by
  intro i s hp
  rw [exec_fill hp]
  exact ⟨fun hl he => ⟨fun _ _ hin => fillStep_of_byte hl he hin, fun _ hin => fillStep_of_eos hl he hin,
    fun _ hin => fillStep_of_err hl he hin⟩, fillStep_of_end⟩

/-! DRAIN of an encode operation, through the line wrapper. -/

theorem drainByteEncode_of_full (h : lineFull s = true) : drainByteEncode s = outWrite newlineByte clearCol s :=
  if_pos h

theorem drainByteEncode_of_room (h : lineFull s = false) (hb : readCell s.obuf s.opos = some b) :
    drainByteEncode s = outWrite b (fun t => countSymbol (advanceOpos t)) s := by
  rw [drainByteEncode, if_neg (by simp [h]), writeNext_of_written hb]

/-- Settles O16: the wrapper writes its newline first where the line is full, and counts the symbol where it is
enabled. -/
theorem encodeDrainGoesThroughWrapper : Obligations.EncodeDrainGoesThroughWrapper := by
  intro i s b hm hp hlt hb
  have hexec : exec i s = drainByteEncode s := by rw [exec_drain_of_encode hm hp, drainStep_of_lt hlt]
  refine ⟨fun rest hack => ⟨fun hw hcol => ?_, fun hw hcol => ?_, fun hw => ?_⟩, fun rest hack => ?_⟩
  · rw [hexec, drainByteEncode_of_full (lineFull_iff.2 ⟨hw, hcol⟩), outWrite_of_ok hack]
    rfl
  · have hroom : lineFull s = false := by simp [lineFull, hcol]
    rw [hexec, drainByteEncode_of_room hroom hb, outWrite_of_ok hack]
    exact congrArg _ (countSymbol_of_wrap (s := advanceOpos (acceptByte b rest s)) hw)
  · have hroom : lineFull s = false := by simp [lineFull, wrapEnabled, hw]
    rw [hexec, drainByteEncode_of_room hroom hb, outWrite_of_ok hack]
    exact congrArg _ (countSymbol_of_no_wrap (s := advanceOpos (acceptByte b rest s)) hw)
  · exact hexec.trans (drainByteEncode_of_err hack hb)

/-! FINISH. -/

/-- The trailing newline of an encode session that ends in mid-line (R181). -/
theorem exec_finish_of_midLine (hm : modeOf i = .encode) (hp : s.phase = .finish) (hw : s.wrap ≠ 0#32)
    (hcol : s.col ≠ 0#32) : exec i s = outWrite newlineByte (fun t => enterPhase .done (clearCol t)) s := by
  rw [exec_of_encode hm, encodeStep, hp]
  exact if_pos (by simp [wrapEnabled, hw, hcol])

theorem exec_finish_of_lineStart (hp : s.phase = .finish)
    (h : modeOf i = .decode ∨ s.wrap = 0#32 ∨ s.col = 0#32) : exec i s = .next (enterPhase .done s) := by
  cases hm : modeOf i with
  | decode => rw [exec_of_decode hm, decodeStep, hp]; rfl
  | encode =>
    have hline : s.wrap = 0#32 ∨ s.col = 0#32 := h.resolve_left (by simp [hm])
    rw [exec_of_encode hm, encodeStep, hp]
    exact if_neg (by simpa [wrapEnabled, imp_iff_not_or] using hline)

/-- Settles O18: FINISH writes in mid-line only. -/
theorem finishWritesTrailingNewline : Obligations.FinishWritesTrailingNewline := by
  refine fun i s hp => ⟨fun hm hw hcol => ⟨fun rest hack => ?_, fun rest hack => ?_⟩, exec_finish_of_lineStart hp⟩
  · rw [exec_finish_of_midLine hm hp hw hcol, outWrite_of_ok hack]
    rfl
  · exact exec_finish_of_err hack hm hp hw hcol

/-! The stops. -/

theorem outWrite_of_unanswered (h : s.acks = []) : outWrite b onOk s = .fault .blockedOutWrite := by rw [outWrite, h]

/-- A line is full or has room, and either way the byte step of DRAIN is one `OutWrite`. -/
theorem exec_drain_eq_outWrite (i : Instr) (hp : s.phase = .drain) (hlt : s.opos < s.olen)
    (hb : readCell s.obuf s.opos = some b) : ∃ (a : Byte) (f : State → State), exec i s = outWrite a f s := by
  cases hm : modeOf i with
  | decode =>
    rw [exec_drain_of_decode hm hp, drainStep_of_lt hlt, drainByteDecode, writeNext_of_written hb]
    exact ⟨_, _, rfl⟩
  | encode =>
    rw [exec_drain_of_encode hm hp, drainStep_of_lt hlt]
    cases hfull : lineFull s with
    | true => exact ⟨_, _, drainByteEncode_of_full hfull⟩
    | false => exact ⟨_, _, drainByteEncode_of_room hfull hb⟩

/-- Settles O5: the turn in IDLE, DONE and ERROR, and the requests of FILL, DRAIN and FINISH without an answer. -/
theorem noStepWithoutCommandOrAnswer : Obligations.NoStepWithoutCommandOrAnswer := by
  refine ⟨fun s hw ht => ?_, fun i s hp hl he hin => ?_, fun i s b hp hlt hb hack => ?_,
    fun i s hm hp hw hcol hack => ?_⟩
  · exact ⟨step_of_idle hw (.inl ⟨rfl, ht⟩), step_of_done hw (.inl ⟨rfl, ht⟩), step_of_error hw (.inl ⟨rfl, ht⟩)⟩
  · rw [exec_fill hp, fillStep_of_unanswered hl he hin]
  · obtain ⟨a, f, h⟩ := exec_drain_eq_outWrite i hp hlt hb
    rw [h, outWrite_of_unanswered hack]
  · rw [exec_finish_of_midLine hm hp hw hcol, outWrite_of_unanswered hack]

end Sys2Proof.Machine
end

section
/-! What the invariant excludes (20_memory.md section 7; 60_exceptions.md R212): the engine step of every operation is a
next state, or waits for an answer of the host; and a length is judged at the end of the input only. -/
namespace Sys2Proof.Machine
variable {i : Instr} {s t u : State}

/-! The steps. -/

theorem outWrite_answers (b : Byte) (f : State → State) (s : State) :
    (∃ t, outWrite b f s = .next t) ∨ outWrite b f s = .fault .blockedOutWrite ∧ s.acks = [] := by
  rcases hack : s.acks with - | ⟨⟨⟩, rest⟩
  · exact .inr ⟨outWrite_of_unanswered hack, rfl⟩
  · exact .inl ⟨_, outWrite_of_ok hack⟩
  · exact .inl ⟨_, outWrite_of_err hack⟩

theorem fillStep_answers {cap : Nat} (h : s.ilen ≤ cap) :
    (∃ t, fillStep cap s = .next t) ∨ fillStep cap s = .fault .blockedInRead ∧ s.input = [] := by
  by_cases hend : s.ilen = cap ∨ s.eos = true
  · exact .inl ⟨_, fillStep_of_end hend⟩
  · rw [not_or, Bool.not_eq_true] at hend
    obtain ⟨hne, he⟩ := hend
    have hl : s.ilen < cap := lt_of_le_of_ne h hne
    rcases hin : s.input with - | ⟨b | - | -, rest⟩
    · exact .inr ⟨fillStep_of_unanswered hl he hin, rfl⟩
    · exact .inl ⟨_, fillStep_of_byte hl he hin⟩
    · exact .inl ⟨_, fillStep_of_eos hl he hin⟩
    · exact .inl ⟨_, fillStep_of_err hl he hin⟩

section Process
variable {data : List Byte} (hp : s.phase = .process) (hl : s.ilen ≤ inCap s.params (modeOf i))
  (hd : readCells s.ibuf 0 s.ilen = some data)
include hp hl hd

theorem exec_process_of_encode_next (hm : modeOf i = .encode) : ∃ t, exec i s = .next t := by
  rw [hm] at hl
  rw [exec_process_of_encode hm hp]
  cases h : encodeSymbols (schemeOf i) data with
  | ok syms => exact ⟨_, encodeProcess_of_packed hl hd h⟩
  | error k => exact ⟨_, encodeProcess_of_error hl hd h⟩

theorem exec_process_of_decode_next (hm : modeOf i = .decode) (hc : s.carryCnt < groupSymbols (schemeOf i)) :
    ∃ t, exec i s = .next t := by
  rw [hm] at hl
  rw [exec_process_of_decode hm hp]
  cases h : scan s.params.b16DecodeLowercase (schemeOf i) (ignoreGarbageOf i) (carriedGroup s) data with
  | error k => exact ⟨_, decodeProcess_of_scanError hl hd h⟩
  | ok r =>
    obtain ⟨grp, out⟩ := r
    cases he : s.eos with
    | false =>
      have hleft := scan_left_length (carriedGroup_length_lt hc) h
      exact ⟨_, decodeProcess_of_notFinal hl hd h he (hleft.trans_le (groupSymbols_bounds _).2)⟩
    | true =>
      cases hend : finishGroup (schemeOf i) grp with
      | error k => exact ⟨_, decodeProcess_of_endError hl hd h he hend⟩
      | ok tail => exact ⟨_, decodeProcess_of_final hl hd h he hend⟩

end Process

theorem encode_of_ne_decode (h : modeOf i ≠ .decode) : modeOf i = .encode := by
  cases hm : modeOf i with
  | encode => rfl
  | decode => exact absurd hm h

/-- What an engine step answers in a machine that meets the invariant. -/
def HasStepOrWaits (r : Result) (s : State) : Prop :=
  (∃ t, r = .next t) ∨ (r = .fault .blockedInRead ∧ s.phase = .fill ∧ s.input = []) ∨
    (r = .fault .blockedOutWrite ∧ (s.phase = .drain ∨ s.phase = .finish) ∧ s.acks = [])

/-- What a step answers in such a machine: it may also stop where no engine step is enabled. -/
def HasStepOrStops (r : Result) (s : State) : Prop :=
  (∃ t, r = .next t) ∨ (r = .fault .waitingForStart ∧ s.phase = .idle) ∨ (r = .fault .sessionDone ∧ s.phase = .done) ∨
    (r = .fault .sessionError ∧ s.phase = .error) ∨ (r = .fault .blockedInRead ∧ s.phase = .fill ∧ s.input = []) ∨
    (r = .fault .blockedOutWrite ∧ (s.phase = .drain ∨ s.phase = .finish) ∧ s.acks = [])

theorem Inv.exec_hasStepOrWaits (hs : Inv s) (hrun : sessionRunning s = true) (hdec : decode s.ctrl = .ok i) :
    HasStepOrWaits (Machine.exec i s) s := by
  obtain ⟨-, hmode, hscheme, -⟩ := decode_fields _ _ hdec
  have hl : s.ilen ≤ inCap s.params (modeOf i) := hmode ▸ hs.bounds.ilen
  cases hp : s.phase with
  | idle | done | error => simp [sessionRunning, hp] at hrun
  | fill =>
    rw [exec_fill hp]
    exact (fillStep_answers hl).imp_right fun ⟨h, hin⟩ => .inl ⟨h, hp, hin⟩
  | process =>
    obtain ⟨data, hd⟩ := readCells_of_written s.ibuf 0 s.ilen fun j _ hj => hs.bounds.ibuf j (by omega)
    cases hm : modeOf i with
    | encode => exact .inl (exec_process_of_encode_next hp hl hd hm)
    | decode => exact .inl (exec_process_of_decode_next hp hl hd hm (hscheme ▸ hs.bounds.carryCnt))
  | drain =>
    rcases hs.bounds.opos.lt_or_eq with hlt | hend
    · obtain ⟨b, hb⟩ := Option.isSome_iff_exists.1 (hs.bounds.obuf s.opos hlt)
      obtain ⟨a, f, h⟩ := exec_drain_eq_outWrite i hp hlt hb
      rw [h]
      exact (outWrite_answers a f s).imp_right fun ⟨h, hack⟩ => .inr ⟨h, .inl hp, hack⟩
    · exact .inl ⟨_, exec_drain_of_eq hp hend⟩
  | finish =>
    by_cases h : modeOf i = .decode ∨ s.wrap = 0#32 ∨ s.col = 0#32
    · exact .inl ⟨_, exec_finish_of_lineStart hp h⟩
    · rw [not_or, not_or] at h
      obtain ⟨hm, hw, hcol⟩ := h
      rw [exec_finish_of_midLine (encode_of_ne_decode hm) hp hw hcol]
      exact (outWrite_answers _ _ s).imp_right fun ⟨h, hack⟩ => .inr ⟨h, .inr hp, hack⟩

/-- The engine's turn, in `s` or in `s` without the turn left to the engine. -/
theorem Inv.turn_hasStepOrStops (hu : Inv u) (hw : s.params.wf = true)
    (hturn : u = s ∧ s.turns = [] ∨ u = Machine.dropTurn s ∧ ∃ r, s.turns = .engine :: r) :
    HasStepOrStops (step s) u := by
  by_cases hrun : sessionRunning u = true
  · obtain ⟨i, hdec, -⟩ := decode_of_legal (hu.phase.legal (.inl hrun))
    rw [step_of_running hw hturn hrun hdec]
    exact (hu.exec_hasStepOrWaits hrun hdec).imp_right fun h => .inr (.inr (.inr h))
  · cases hp : u.phase with
    | fill | process | drain | finish => simp [sessionRunning, hp] at hrun
    | idle => exact .inr (.inl ⟨step_of_idle hw hturn hp, hp⟩)
    | done => exact .inr (.inr (.inl ⟨step_of_done hw hturn hp, hp⟩))
    | error => exact .inr (.inr (.inr (.inl ⟨step_of_error hw hturn hp, hp⟩)))

/-- Settles O53: a command always has its step; the engine's turn stops in IDLE, DONE and ERROR, and in a phase of a
session CTRL selects an operation whose step is a next state or waits for the host. -/
theorem invariantExcludesInternalStops : Obligations.InvariantExcludesInternalStops := by
  intro s hs
  rcases hturns : s.turns with - | ⟨c | -, rest⟩
  · exact hs.turn_hasStepOrStops hs.params (.inl ⟨rfl, hturns⟩)
  · exact .inl ⟨_, step_of_command hs.params hturns⟩
  · exact hs.dropTurn.turn_hasStepOrStops hs.params (.inr ⟨rfl, rest, hturns⟩)

/-! MisalignedLength. -/

/-- A chunk that is not the last is full, so it is a whole number of the four-byte groups of Z85 (R175, R212). -/
theorem Inv.eos_of_misaligned (hs : Inv s) (hdec : decode s.ctrl = .ok i) (hp : s.phase = .process)
    (hm : modeOf i = .encode) (hlen : s.ilen % 4 ≠ 0) : s.eos = true := by
  obtain ⟨-, hmode, -, -⟩ := decode_fields _ _ hdec
  by_contra he
  have hfull := hs.phase.process hp (Bool.eq_false_of_not_eq_true he)
  rw [← hmode, hm] at hfull
  exact hlen (hfull ▸ Nat.mod_eq_zero_of_dvd (blockBytes_dvd_encChunk hs.params .z85))

/-- An error entry that names MisalignedLength is a PROCESS step of the last chunk, and writes nothing of it. -/
theorem Inv.misaligned_entry (hs : Inv s) (hdec : decode s.ctrl = .ok i) (h : ErrorEntry i s t)
    (ht : t.err = some .misalignedLength) : s.phase = .process ∧ s.eos = true ∧ t = raise .misalignedLength s := by
  cases h with
  | readError | writeError | invalidSymbol => simp at ht
  | misalignedInput hp hm hd hlen =>
    rw [readCells_length _ _ _ _ hd] at hlen
    exact ⟨hp, hs.eos_of_misaligned hdec hp hm hlen, rfl⟩
  | misalignedText hp _ he => exact ⟨hp, he, rfl⟩

/-- Settles O25: of the steps that write ERR only those of `misaligned_entry` name MisalignedLength. -/
theorem misalignedLengthJudgedAtEndOfStream : Obligations.MisalignedLengthJudgedAtEndOfStream := by
  intro s t hs h hold hnew
  obtain ⟨-, ⟨c, r, -, rfl⟩ | ⟨i, u, hturn, -, hdec, hexec⟩⟩ := step_cases h
  · rcases hostCommand_err c (dropTurn s) with ⟨herr, -⟩ | ⟨herr, -⟩ | hraise
    · exact absurd (herr.symm.trans hnew) hold
    · cases herr.symm.trans hnew
    · rw [hraise] at hnew
      cases hnew
  · have hu : Inv u := by
      obtain ⟨rfl, -⟩ | ⟨rfl, -⟩ := hturn
      · exact hs
      · exact hs.dropTurn
    rw [(engineTurn_state hturn).1] at hu hdec hexec
    obtain hentry | ⟨-, hkeep⟩ := exec_errorEntry_or_keeps hexec
    · obtain ⟨hp, he, rfl⟩ := hu.misaligned_entry hdec hentry hnew
      exact ⟨hp, he, rfl, rfl, rfl, rfl, rfl⟩
    · exact absurd (hkeep.symm.trans hnew) hold

end Sys2Proof.Machine
end

section
/-! Symbols and bytes in shifts and masks (40_radix_encode.md R102, R103, R113; 42_radix_decode.md R136): what each
shift, mask and join of the written-out forms is as a number, so that they meet the bit fields of the block value. -/
namespace Sys2Proof.Machine

section Bits
variable {x y z m : Byte} {j k l q : Nat}

theorem toNat_ushiftRight_eq_div (x : Byte) (k : Nat) : (x >>> k).toNat = x.toNat / 2 ^ k := by
  rw [BitVec.toNat_ushiftRight, Nat.shiftRight_eq_div_pow]

theorem toNat_and_lowMask (hm : m.toNat = 2 ^ j - 1) (x : Byte) : (x &&& m).toNat = x.toNat % 2 ^ j := by
  rw [BitVec.toNat_and, hm, Nat.and_two_pow_sub_one_eq_mod]

/-- Bits pushed up and bits below the place they are pushed to are joined by addition. -/
theorem toNat_shiftLeft_or (hx : x.toNat * 2 ^ k < 256) (hy : y.toNat < 2 ^ k) :
    ((x <<< k) ||| y).toNat = x.toNat * 2 ^ k + y.toNat := by
  rw [BitVec.toNat_or, BitVec.toNat_shiftLeft, Nat.shiftLeft_eq, Nat.mod_eq_of_lt hx, Nat.mul_comm,
    Nat.two_pow_add_eq_or_of_lt hy]

/-- The low `j` bits of a byte, pushed up, above other bits. -/
theorem toNat_lowBits_or (x : Byte) (hm : m.toNat = 2 ^ j - 1) (hfit : j + k ≤ 8) (hy : y.toNat < 2 ^ k) :
    (((x &&& m) <<< k) ||| y).toNat = x.toNat % 2 ^ j * 2 ^ k + y.toNat := by
  have hx : (x &&& m).toNat * 2 ^ k < 256 := by
    rw [toNat_and_lowMask hm]
    calc x.toNat % 2 ^ j * 2 ^ k
      _ < 2 ^ j * 2 ^ k := Nat.mul_lt_mul_of_pos_right (Nat.mod_lt _ (by positivity)) (by positivity)
      _ = 2 ^ (j + k) := (pow_add 2 j k).symm
      _ ≤ 2 ^ 8 := Nat.pow_le_pow_right (by decide) hfit
  rw [toNat_shiftLeft_or hx hy, toNat_and_lowMask hm]

theorem toNat_ushiftRight_lt (hy : y.toNat < 2 ^ (k + l)) : (y >>> l).toNat < 2 ^ k := by
  rwa [toNat_ushiftRight_eq_div, Nat.div_lt_iff_lt_mul (by positivity), ← pow_add]

/-- A value that lies across two bytes. -/
theorem toNat_join (x : Byte) (hm : m.toNat = 2 ^ j - 1) (hfit : j + k ≤ 8) (hy : y.toNat < 2 ^ (k + l)) :
    (((x &&& m) <<< k) ||| (y >>> l)).toNat = x.toNat % 2 ^ j * 2 ^ k + y.toNat / 2 ^ l := by
  rw [toNat_lowBits_or x hm hfit (toNat_ushiftRight_lt hy), toNat_ushiftRight_eq_div]

/-- A byte put together from three symbols, the middle one of `q` bits. -/
theorem toNat_join_three (x : Byte) (hm : m.toNat = 2 ^ j - 1) (hfit : j + (k + q) ≤ 8) (hy : y.toNat < 2 ^ q)
    (hz : z.toNat < 2 ^ (k + l)) : (((x &&& m) <<< (k + q)) ||| (y <<< k) ||| (z >>> l)).toNat =
      x.toNat % 2 ^ j * 2 ^ (k + q) + (y.toNat * 2 ^ k + z.toNat / 2 ^ l) := by
  have hlow := toNat_ushiftRight_lt hz
  have hpush : (y.toNat + 1) * 2 ^ k ≤ 2 ^ (k + q) := by
    rw [pow_add, Nat.mul_comm (2 ^ k)]
    exact Nat.mul_le_mul_right _ hy
  have hbyte : 2 ^ (k + q) ≤ 256 := Nat.pow_le_pow_right (n := 2) (j := 8) (by decide) (by omega)
  rw [Nat.add_mul, Nat.one_mul] at hpush
  have hyz : ((y <<< k) ||| (z >>> l)).toNat = y.toNat * 2 ^ k + (z >>> l).toNat :=
    toNat_shiftLeft_or (by have := Nat.two_pow_pos k; omega) hlow
  rw [BitVec.or_assoc, toNat_lowBits_or x hm hfit (by omega), hyz, toNat_ushiftRight_eq_div]

end Bits

/-! The numbers of the two families. -/

theorem base64_numbers : ∀ sc ∈ [Scheme.base64, .base64url],
    sc ≠ .base2lsbf ∧ sc ≠ .z85 ∧ blockBytes sc = 3 ∧ groupSymbols sc = 4 ∧ symbolBits sc = 6 := by decide

theorem base32_numbers : ∀ sc ∈ [Scheme.base32, .base32hex],
    sc ≠ .base2lsbf ∧ sc ≠ .z85 ∧ blockBytes sc = 5 ∧ groupSymbols sc = 8 ∧ symbolBits sc = 5 := by decide

/-! Full blocks. -/

section Families
variable {sc : Scheme}

/-- Three bytes in four symbols (R113). -/
theorem blockSymbols_base64 (hs : sc ∈ [Scheme.base64, .base64url]) (b0 b1 b2 : Byte) :
    blockSymbols sc [b0, b1, b2] =
      [(b0 >>> 2).toNat, (((b0 &&& 0x03#8) <<< 4) ||| (b1 >>> 4)).toNat,
       (((b1 &&& 0x0F#8) <<< 2) ||| (b2 >>> 6)).toNat, (b2 &&& 0x3F#8).toNat] := by
  obtain ⟨hl, -, -, hS, hK⟩ := base64_numbers sc hs
  rw [blockSymbols_eq_bitFields hl, hS, hK, toNat_ushiftRight_eq_div,
    toNat_join (j := 2) b0 rfl (by decide) b1.isLt, toNat_join (j := 4) b1 rfl (by decide) b2.isLt,
    toNat_and_lowMask (j := 6) rfl]
  simp [bitFields, List.range_succ, bytesValue]
  omega

/-- Five bytes in eight symbols (R113). -/
theorem blockSymbols_base32 (hs : sc ∈ [Scheme.base32, .base32hex]) (b0 b1 b2 b3 b4 : Byte) :
    blockSymbols sc [b0, b1, b2, b3, b4] =
      [(b0 >>> 3).toNat, (((b0 &&& 0x07#8) <<< 2) ||| (b1 >>> 6)).toNat, ((b1 >>> 1) &&& 0x1F#8).toNat,
       (((b1 &&& 0x01#8) <<< 4) ||| (b2 >>> 4)).toNat, (((b2 &&& 0x0F#8) <<< 1) ||| (b3 >>> 7)).toNat,
       ((b3 >>> 2) &&& 0x1F#8).toNat, (((b3 &&& 0x03#8) <<< 3) ||| (b4 >>> 5)).toNat, (b4 &&& 0x1F#8).toNat] := by
  obtain ⟨hl, -, -, hS, hK⟩ := base32_numbers sc hs
  rw [blockSymbols_eq_bitFields hl, hS, hK, toNat_ushiftRight_eq_div,
    toNat_join (j := 3) b0 rfl (by decide) b1.isLt, toNat_and_lowMask (j := 5) rfl, toNat_ushiftRight_eq_div,
    toNat_join (j := 1) b1 rfl (by decide) b2.isLt, toNat_join (j := 4) b2 rfl (by decide) b3.isLt,
    toNat_and_lowMask (j := 5) rfl, toNat_ushiftRight_eq_div, toNat_join (j := 2) b3 rfl (by decide) b4.isLt,
    toNat_and_lowMask (j := 5) rfl]
  simp [bitFields, List.range_succ, bytesValue]
  omega

end Families

/-- A byte in two symbols (R113). -/
theorem blockSymbols_base16 (b : Byte) : blockSymbols .base16 [b] = [(b >>> 4).toNat, (b &&& 0x0F#8).toNat] := by
  rw [blockSymbols_eq_bitFields (by decide), toNat_ushiftRight_eq_div, toNat_and_lowMask (j := 4) rfl]
  simp [bitFields, List.range_succ, bytesValue]
  omega

/-- A byte bit by bit, the most significant first (R113). -/
theorem blockSymbols_base2msbf (b : Byte) :
    blockSymbols .base2msbf [b] = (List.range 8).map fun i => ((b >>> (7 - i)) &&& 1#8).toNat := by
  refine List.map_congr_left fun i _ => ?_
  rw [toNat_and_lowMask (j := 1) rfl, toNat_ushiftRight_eq_div]
  simp [bytesValue]

/-- A byte bit by bit, the least significant first (R102). -/
theorem blockSymbols_base2lsbf (b : Byte) :
    blockSymbols .base2lsbf [b] = (List.range 8).map fun i => ((b >>> i) &&& 1#8).toNat := by
  refine List.map_congr_left fun i _ => ?_
  rw [toNat_and_lowMask (j := 1) rfl, toNat_ushiftRight_eq_div]
  simp [bytesValue]

section OneBlock
variable {sc : Scheme} {blk : List Byte}

theorem wholeBlocks_of_fullBlock (hb : blk.length = blockBytes sc) : wholeBlocks sc blk = [blk] := by
  rw [wholeBlocks, hb, Nat.div_self (blockBytes_pos sc)]
  simp [subBlock, List.take_of_length_le hb.le]

/-- The encoding of one full block is that block packed (R100). -/
theorem encRadix_of_fullBlock (hb : blk.length = blockBytes sc) : encRadix sc blk = packFull sc blk := by
  simp [encRadix_eq, wholeBlocks_of_fullBlock hb, hb]

/-- The encoding of an input that ends before its first block is full is that partial block packed (R100). -/
theorem encRadix_of_partialBlock (hpos : 0 < blk.length) (hb : blk.length < blockBytes sc) :
    encRadix sc blk = packPartial sc blk := by
  simp [encRadix, Nat.div_eq_of_lt hb, Nat.mod_eq_of_lt hb, hpos]

end OneBlock

/-- Settles O30: the shifts and masks of each line are the bit fields of the block value. -/
theorem fullBlockSymbolsByShiftsAndMasks : Obligations.FullBlockSymbolsByShiftsAndMasks :=
  ⟨fun b0 b1 b2 _ hs => blockSymbols_base64 hs b0 b1 b2,
    fun b0 b1 b2 b3 b4 _ hs => blockSymbols_base32 hs b0 b1 b2 b3 b4, blockSymbols_base16,
    blockSymbols_base2msbf, blockSymbols_base2lsbf, fun _ _ _ hb => encRadix_of_fullBlock hb⟩

/-! Partial blocks: the block filled with zero bytes (R103). -/

/-- Settles O31: a partial block is the first symbols of the block that zero bytes fill, and its last data symbol lies
across a byte and the zeros after it. -/
theorem partialBlockPadsWithEquals : Obligations.PartialBlockPadsWithEquals := by
  refine ⟨fun b0 b1 sc hs => ?_, fun b0 b1 b2 b3 sc hs => ?_, fun sc blk _ hpos hb => encRadix_of_partialBlock hpos hb⟩
  · obtain ⟨-, -, hB, hS, hK⟩ := base64_numbers sc hs
    constructor <;>
      simp [packPartial, dataSymbols, hB, hS, hK, blockSymbols_base64 hs, List.replicate_succ, padByte]
  · obtain ⟨-, -, hB, hS, hK⟩ := base32_numbers sc hs
    and_intros <;>
      simp [packPartial, dataSymbols, hB, hS, hK, blockSymbols_base32 hs, List.replicate_succ, padByte]

/-! Full groups. -/

section Groups
variable {sc : Scheme} {s0 s1 s2 s3 s4 s5 s6 s7 : Byte}

theorem bigEndianBytes_three (v : Nat) :
    bigEndianBytes 3 v = [BitVec.ofNat 8 (v / 2 ^ 16), BitVec.ofNat 8 (v / 2 ^ 8), BitVec.ofNat 8 v] := by
  simp [bigEndianBytes, List.range_succ]

theorem bigEndianBytes_five (v : Nat) : bigEndianBytes 5 v =
    [BitVec.ofNat 8 (v / 2 ^ 32), BitVec.ofNat 8 (v / 2 ^ 24), BitVec.ofNat 8 (v / 2 ^ 16), BitVec.ofNat 8 (v / 2 ^ 8),
     BitVec.ofNat 8 v] := by
  simp [bigEndianBytes, List.range_succ]

/-- Four symbols in three bytes (42_radix_decode.md R136). -/
theorem unpackGroup_base64 (hs : sc ∈ [Scheme.base64, .base64url]) (h0 : s0.toNat < 64) (h1 : s1.toNat < 64)
    (h2 : s2.toNat < 64) (h3 : s3.toNat < 64) : unpackGroup sc [s0.toNat, s1.toNat, s2.toNat, s3.toNat] =
      [(s0 <<< 2) ||| (s1 >>> 4), ((s1 &&& 0x0F#8) <<< 4) ||| (s2 >>> 2), ((s2 &&& 0x03#8) <<< 6) ||| s3] := by
  obtain ⟨hl, hz, hB, -, hK⟩ := base64_numbers sc hs
  have hb0 := toNat_shiftLeft_or (x := s0) (k := 2) (by omega) (toNat_ushiftRight_lt (l := 4) h1)
  have hb1 := toNat_join (j := 4) (k := 4) (l := 2) s1 (m := 0x0F#8) rfl (by decide) h2
  have hb2 := toNat_lowBits_or (j := 2) (k := 6) s2 (m := 0x03#8) rfl (by decide) h3
  rw [unpackGroup_eq_bigEndianBytes hl hz, hB, hK, bigEndianBytes_three]
  simp only [List.cons.injEq, ← BitVec.toNat_inj, BitVec.toNat_ofNat, hb0, hb1, hb2, toNat_ushiftRight_eq_div,
    symbolsValue, List.foldl_cons, List.foldl_nil, and_true]
  omega

/-- Eight symbols in five bytes (R136). -/
theorem unpackGroup_base32 (hs : sc ∈ [Scheme.base32, .base32hex]) (h0 : s0.toNat < 32) (h1 : s1.toNat < 32)
    (h2 : s2.toNat < 32) (h3 : s3.toNat < 32) (h4 : s4.toNat < 32) (h5 : s5.toNat < 32) (h6 : s6.toNat < 32)
    (h7 : s7.toNat < 32) :
    unpackGroup sc [s0.toNat, s1.toNat, s2.toNat, s3.toNat, s4.toNat, s5.toNat, s6.toNat, s7.toNat] =
      [(s0 <<< 3) ||| (s1 >>> 2), ((s1 &&& 0x03#8) <<< 6) ||| (s2 <<< 1) ||| (s3 >>> 4),
       ((s3 &&& 0x0F#8) <<< 4) ||| (s4 >>> 1), ((s4 &&& 0x01#8) <<< 7) ||| (s5 <<< 2) ||| (s6 >>> 3),
       ((s6 &&& 0x07#8) <<< 5) ||| s7] := by
  obtain ⟨hl, hz, hB, -, hK⟩ := base32_numbers sc hs
  have hb0 := toNat_shiftLeft_or (x := s0) (k := 3) (by omega) (toNat_ushiftRight_lt (l := 2) h1)
  have hb1 := toNat_join_three (j := 2) (k := 1) (l := 4) (q := 5) s1 (m := 0x03#8) rfl (by decide) h2 h3
  have hb2 := toNat_join (j := 4) (k := 4) (l := 1) s3 (m := 0x0F#8) rfl (by decide) h4
  have hb3 := toNat_join_three (j := 1) (k := 2) (l := 3) (q := 5) s4 (m := 0x01#8) rfl (by decide) h5 h6
  have hb4 := toNat_lowBits_or (j := 3) (k := 5) s6 (m := 0x07#8) rfl (by decide) h7
  rw [unpackGroup_eq_bigEndianBytes hl hz, hB, hK, bigEndianBytes_five]
  simp only [List.cons.injEq, ← BitVec.toNat_inj, BitVec.toNat_ofNat, hb0, hb1, hb2, hb3, hb4,
    toNat_ushiftRight_eq_div, symbolsValue, List.foldl_cons, List.foldl_nil, and_true, Nat.reduceAdd]
  omega

/-- Two symbols in a byte (R136). -/
theorem unpackGroup_base16 (h0 : s0.toNat < 16) (h1 : s1.toNat < 16) :
    unpackGroup .base16 [s0.toNat, s1.toNat] = [(s0 <<< 4) ||| s1] := by
  have hb := toNat_shiftLeft_or (x := s0) (k := 4) (by omega) h1
  rw [unpackGroup_eq_bigEndianBytes (by decide) (by decide)]
  simp [bigEndianBytes, symbolsValue, ← BitVec.toNat_inj, -BitVec.toNat_or, hb]
  omega

/-- A bit read as a number is the byte shifted to it and masked. -/
theorem toNat_getLsbD (b : Byte) (i : Nat) : (b.getLsbD i).toNat = ((b >>> i) &&& 1#8).toNat := by
  rw [toNat_and_lowMask (j := 1) rfl, toNat_ushiftRight_eq_div, BitVec.getLsbD, Nat.toNat_testBit, pow_one]

end Groups

/-- Settles O38: the bytes of the group's value are the symbols shifted, masked and joined; a byte's own bits are the
symbols of its block, which unpacks to itself. -/
theorem fullGroupBytesByShifts : Obligations.FullGroupBytesByShifts := by
  refine ⟨fun _ _ _ _ h0 h1 h2 h3 _ hs => unpackGroup_base64 hs h0 h1 h2 h3,
    fun _ _ _ _ _ _ _ _ h0 h1 h2 h3 h4 h5 h6 h7 _ hs => unpackGroup_base32 hs h0 h1 h2 h3 h4 h5 h6 h7,
    fun _ _ h0 h1 => unpackGroup_base16 h0 h1, fun b => ?_⟩
  simp only [toNat_getLsbD]
  rw [← blockSymbols_base2msbf, ← blockSymbols_base2lsbf]
  exact ⟨unpackGroup_blockSymbols (by decide) rfl, unpackGroup_blockSymbols (by decide) rfl⟩

end Sys2Proof.Machine
end

section
/-! Lengths and digits (40_radix_encode.md R111; 41_z85_encode.md R121, R123), and the value of a group on decode
(42_radix_decode.md R137; 43_z85_decode.md R158, R159). -/
namespace Sys2Proof.Machine

/-- The whole blocks and the begun one, counted together (R111). -/
theorem div_add_begun_eq {b : Nat} (hb : 0 < b) (l : Nat) :
    l / b + (if 0 < l % b then 1 else 0) = (l + b - 1) / b := by
  have hsplit : l + b - 1 = l % b + (b - 1) + b * (l / b) := by
    have := Nat.mod_add_div l b
    omega
  rw [hsplit, Nat.add_mul_div_left _ _ hb, Nat.add_comm]
  have hlt := Nat.mod_lt l hb
  congr 1
  split
  · rw [show l % b + (b - 1) = l % b - 1 + b by omega, Nat.add_div_right _ hb, Nat.div_eq_of_lt (by omega)]
  · rw [Nat.div_eq_of_lt (by omega)]

/-- Settles O32: every begun block gives one group, and a group of the padded families is 4 or 8 symbols. -/
theorem encodedLengthLaw : Obligations.EncodedLengthLaw := by
  intro sc data hz
  have hlen : (encRadix sc data).length = groupSymbols sc * ((data.length + blockBytes sc - 1) / blockBytes sc) := by
    rw [encRadix_length hz, div_add_begun_eq (blockBytes_pos sc), Nat.mul_comm]
  refine ⟨hlen, fun hs => ?_, fun hs => ?_⟩
  · rw [hlen]
    rcases hs with rfl | rfl <;> exact Nat.mul_mod_right _ _
  · rw [hlen]
    rcases hs with rfl | rfl <;> exact Nat.mul_mod_right _ _

theorem z85Digits_eq (v : Nat) :
    z85Digits v = [v / 85 ^ 4 % 85, v / 85 ^ 3 % 85, v / 85 ^ 2 % 85, v / 85 % 85, v % 85] := by
  simp [z85Digits, List.range_succ]

/-- Settles O33: a value below 2^32 has five base-85 digits, and an input of one group is encoded as that group. -/
theorem z85DigitsSpellGroupValue : Obligations.Z85DigitsSpellGroupValue := by
  intro b0 b1 b2 b3
  have hv : bytesValue [b0, b1, b2, b3] < 2 ^ 32 := bytesValue_lt [b0, b1, b2, b3]
  have hvalue : b0.toNat * 2 ^ 24 + b1.toNat * 2 ^ 16 + b2.toNat * 2 ^ 8 + b3.toNat = bytesValue [b0, b1, b2, b3] := by
    simp only [bytesValue, List.foldl_cons, List.foldl_nil]
    omega
  rw [hvalue]
  have hlt (n : Nat) : n % 85 < 85 := Nat.mod_lt n (by decide)
  refine ⟨_, _, _, _, _, z85Digits_eq _, ?_, hlt _, hlt _, hlt _, hlt _, ?_, ?_⟩
  · exact (Nat.mod_le _ _).trans (by omega)
  · have hspell := z85Value_z85Digits (hv.trans (by decide))
    rw [z85Digits_eq] at hspell
    simp only [z85Value, List.foldl_cons, List.foldl_nil] at hspell
    omega
  · rw [encZ85_of_aligned (by simp), wholeBlocks_of_fullBlock rfl, List.flatMap_singleton, packZ85_eq, z85Digits_eq]

section Values
variable {k : Nat} {grp : List Nat}

/-- The digits' value stays below the power of the radix that their number sets. -/
theorem symbolsValue_lt (h : ∀ v ∈ grp, v < 2 ^ k) : symbolsValue k grp < 2 ^ (grp.length * k) := by
  induction grp using List.reverseRecOn with
  | nil => simp [symbolsValue]
  | append_singleton grp x ih =>
    have hx := h x (by simp)
    have hgrp := ih fun v hv => h v (by simp [hv])
    rw [symbolsValue_concat, List.length_append, List.length_singleton, Nat.add_mul, Nat.one_mul, pow_add]
    calc symbolsValue k grp * 2 ^ k + x
      _ < (symbolsValue k grp + 1) * 2 ^ k := by rw [Nat.add_mul, Nat.one_mul]; omega
      _ ≤ 2 ^ (grp.length * k) * 2 ^ k := Nat.mul_le_mul_right _ hgrp

end Values

/-- Settles O39: byte `i` of a partial group is cut out of the symbols' value by division, as `extractLsb'` cuts it. -/
theorem partialGroupKeepsLeadingBits : Obligations.PartialGroupKeepsLeadingBits := by
  intro sc grp hs hv
  have hz : sc ≠ .z85 := by rintro rfl; simp at hs
  rw [radix_eq_two_pow hz] at hv
  refine ⟨by simp [unpackPartial], fun i hi => ?_⟩
  simp [unpackPartial, hi, BitVec.extractLsb', Nat.mod_eq_of_lt (symbolsValue_lt hv), Nat.shiftRight_eq_div_pow]

/-- Settles O40: the accumulator holds the digits' value modulo 2^32. -/
theorem z85GroupValueModulo32Bits : Obligations.Z85GroupValueModulo32Bits := by
  intro d0 d1 d2 d3 d4
  refine ⟨z85Accumulate [d0, d1, d2, d3, d4], ?_, rfl⟩
  have hvalue : z85Value [d0, d1, d2, d3, d4] = d0 * 85 ^ 4 + d1 * 85 ^ 3 + d2 * 85 ^ 2 + d3 * 85 + d4 := by
    simp only [z85Value, List.foldl_cons, List.foldl_nil]
    ring
  rw [z85Accumulate_toNat, hvalue]

/-- Settles O43: in the radix schemes `=` is of class PAD, which a scan skips. -/
theorem equalsIsPaddingOrZ85Digit : Obligations.EqualsIsPaddingOrZ85Digit :=
  ⟨fun _ _ _ a b hz => decodeText_append_cons_skip (.inr (.inl (classify_padByte hz))) a b, fun _ => rfl⟩

end Sys2Proof.Machine
end

section
/-! Cutting (44_stream_engine.md section 2): a text may be scanned, and an input encoded, in parts. -/
namespace Sys2Proof.Machine
variable {low g : Bool} {sc : Scheme} {grp : List Nat}

/-- A scan of two texts is the scan of the second from the group the first leaves (R183). -/
theorem scan_append (a b : List Byte) : scan low sc g grp (a ++ b) =
    (scan low sc g grp a).bind fun r => (scan low sc g r.1 b).map fun q => (q.1, r.2 ++ q.2) := by
  induction a generalizing grp with
  | nil => cases h : scan low sc g grp b <;> simp [scan, Except.bind, Except.map, h]
  | cons c cs ih =>
    rw [List.cons_append]
    cases hc : classify low sc c with
    | nl => rw [scan_skip (.inl hc), scan_skip (.inl hc), ih]
    | padch => rw [scan_skip (.inr (.inl hc)), scan_skip (.inr (.inl hc)), ih]
    | inv =>
      cases g with
      | true => rw [scan_skip (.inr (.inr ⟨hc, rfl⟩)), scan_skip (.inr (.inr ⟨hc, rfl⟩)), ih]
      | false => rw [scan_invalid hc, scan_invalid hc]; rfl
    | sym v =>
      by_cases hfull : grp.length + 1 = groupSymbols sc
      · rw [scan_group hc hfull, scan_group hc hfull, ih]
        cases scan low sc g [] cs with
        | error k => rfl
        | ok r => cases h : scan low sc g r.1 b <;> simp [Except.bind, Except.map, h]
      · rw [scan_sym hc hfull, scan_sym hc hfull, ih]

/-- Settles O46: the cases of `scan_append`. -/
theorem scanMayBeCutAnywhere : Obligations.ScanMayBeCutAnywhere := by
  intro low g sc grp a b
  rw [scan_append]
  cases scan low sc g grp a with
  | error k => rfl
  | ok r =>
    dsimp only [Except.bind]
    cases scan low sc g r.1 b <;> rfl

section Blocks
variable {a : List Byte} (ha : a.length % blockBytes sc = 0)
include ha

/-- Whole blocks in front of an input are its first blocks, and the rest is cut as before. -/
theorem wholeBlocks_append (b : List Byte) :
    wholeBlocks sc (a ++ b) = wholeBlocks sc a ++ wholeBlocks sc b := by
  have hpos := blockBytes_pos sc
  obtain ⟨n, hn⟩ := Nat.dvd_of_mod_eq_zero ha
  have hna : a.length / blockBytes sc = n := by rw [hn, Nat.mul_div_cancel_left _ hpos]
  have hnab : (a ++ b).length / blockBytes sc = n + b.length / blockBytes sc := by
    rw [List.length_append, hn, Nat.mul_add_div hpos]
  rw [wholeBlocks, wholeBlocks, wholeBlocks, hna, hnab, List.range_add, List.map_append, List.map_map]
  congr 1
  · refine List.map_congr_left fun j hj => ?_
    have hend : j * blockBytes sc + blockBytes sc ≤ a.length := by
      rw [← Nat.succ_mul, hn, Nat.mul_comm]
      exact Nat.mul_le_mul_left _ (List.mem_range.1 hj)
    rw [subBlock, subBlock, List.drop_append_of_le_length (by omega), List.take_append_of_le_length (by simp; omega)]
  · refine List.map_congr_left fun j _ => ?_
    rw [Function.comp_apply, subBlock, subBlock, Nat.add_mul, Nat.mul_comm n, ← hn, List.drop_length_add_append]

theorem lastBlock_append (b : List Byte) : lastBlock sc (a ++ b) = lastBlock sc b := by
  obtain ⟨n, hn⟩ := Nat.dvd_of_mod_eq_zero ha
  rw [lastBlock, lastBlock, List.length_append, hn, Nat.mul_add_div (blockBytes_pos sc), Nat.add_mul, Nat.mul_comm n,
    ← hn, List.drop_length_add_append]

theorem encRadix_append (b : List Byte) : encRadix sc (a ++ b) = encRadix sc a ++ encRadix sc b := by
  have hmod : (a.length + b.length) % blockBytes sc = b.length % blockBytes sc := by
    rw [Nat.add_mod, ha, Nat.zero_add, Nat.mod_mod]
  simp [encRadix_eq, wholeBlocks_append ha, lastBlock_append ha, hmod, ha]

end Blocks

theorem length_of_encZ85_ok {data syms : List Byte} (h : encZ85 data = .ok syms) : data.length % 4 = 0 := by
  by_contra hmis
  cases (encZ85_of_misaligned hmis).symm.trans h

/-- Settles O47: the blocks of an input behind whole blocks are its own. -/
theorem encodingMayBeCutAtBlocks : Obligations.EncodingMayBeCutAtBlocks := by
  refine ⟨fun sc a b _ ha => encRadix_append ha b, fun sc blk _ hb => encRadix_of_fullBlock hb, fun a b x y hx hy => ?_⟩
  have ha := length_of_encZ85_ok hx
  have hb := length_of_encZ85_ok hy
  have hab : (a ++ b).length % 4 = 0 := by rw [List.length_append]; omega
  cases (encZ85_of_aligned ha).symm.trans hx
  cases (encZ85_of_aligned hb).symm.trans hy
  rw [encZ85_of_aligned hab, wholeBlocks_append (sc := .z85) ha, List.flatMap_append]

end Sys2Proof.Machine
end

section
/-! MisalignedLength as the result of a whole session (60_exceptions.md R212). -/
namespace Sys2Proof.Machine
variable {low g : Bool} {sc : Scheme} {w : Word} {i : Instr} {inp : List Byte}

theorem sessionResult_of_encode (hm : modeOf i = .encode) :
    sessionResult low w i inp = (encodeSymbols (schemeOf i) inp).map (wrapText w.toNat) := by
  rw [sessionResult, hm]
  dsimp only
  cases encodeSymbols (schemeOf i) inp <;> rfl

theorem sessionResult_of_decode (hm : modeOf i = .decode) :
    sessionResult low w i inp = decodeText low (schemeOf i) (ignoreGarbageOf i) inp := by
  rw [sessionResult, hm]

theorem map_eq_error_iff {α β : Type} {f : α → β} {r : Except ErrorKind α} {k : ErrorKind} :
    r.map f = .error k ↔ r = .error k := by
  cases r <;> simp [Except.map]

/-- Of the packers only Z85 has an error, for a length that is not a multiple of 4 (R212 (a)). -/
theorem encodeSymbols_error_iff :
    encodeSymbols sc inp = .error .misalignedLength ↔ sc = .z85 ∧ inp.length % 4 ≠ 0 := by
  constructor
  · intro h
    obtain ⟨-, hz, hlen⟩ := encodeSymbols_error h
    exact ⟨hz, hlen⟩
  · rintro ⟨rfl, hlen⟩
    exact encZ85_of_misaligned hlen

/-- Symbols left over are an error in the schemes without partial groups, unless an invalid byte ended the scan before
(R212 (b), (c)). -/
theorem decodeText_misaligned_iff :
    decodeText low sc g inp = .error .misalignedLength ↔ (sc = .base2msbf ∨ sc = .base2lsbf ∨ sc = .z85) ∧
      (g = true ∨ hasInvalid low sc inp = false) ∧ (validSymbols low sc inp).length % groupSymbols sc ≠ 0 := by
  rw [← leftover_ne_nil_iff]
  by_cases hacc : g = true ∨ hasInvalid low sc inp = false
  · rw [decodeText_of_accepted hacc, map_eq_error_iff]
    constructor
    · intro h
      obtain ⟨-, hl, hs⟩ := finishGroup_error h
      exact ⟨hs, hacc, hl⟩
    · rintro ⟨hs, -, hl⟩
      exact finishGroup_eq_misalignedLength hs hl
  · rw [not_or, Bool.not_eq_true, Bool.not_eq_false] at hacc
    obtain ⟨rfl, hinv⟩ := hacc
    simp [decodeText_of_invalid hinv, hinv]

/-- Settles O24: the causes of the packers and of the decoders, operation by operation. -/
theorem misalignedLengthHasThreeCauses : Obligations.MisalignedLengthHasThreeCauses := by
  intro low w i inp
  cases hm : modeOf i with
  | encode =>
    rw [sessionResult_of_encode hm, map_eq_error_iff, encodeSymbols_error_iff]
    cases i with
    | encZ85 g => simp [schemeOf]
    | encB64 | encB64Url | encB32 | encB32Hex | encB16 | encB2Msbf | encB2Lsbf => simp [schemeOf]
    | decB64 | decB64Url | decB32 | decB32Hex | decB16 | decB2Msbf | decB2Lsbf | decZ85 => cases hm
  | decode =>
    rw [sessionResult_of_decode hm, decodeText_misaligned_iff]
    cases i with
    | decZ85 g | decB2Msbf g | decB2Lsbf g => simp [schemeOf, ignoreGarbageOf]
    | decB64 | decB64Url | decB32 | decB32Hex | decB16 => simp [schemeOf]
    | encB64 | encB64Url | encB32 | encB32Hex | encB16 | encB2Msbf | encB2Lsbf | encZ85 => cases hm

end Sys2Proof.Machine
end

section
/-! The line wrapper's text, line by line (45_line_wrapper.md R206, R209). -/
namespace Sys2Proof.Machine
variable {w : Nat} {syms : List Byte}

theorem wrapText_zero (syms : List Byte) : wrapText 0 syms = syms := if_pos rfl

theorem wrapText_nil (w : Nat) : wrapText w [] = [] := by
  by_cases hw : w = 0
  · rw [hw, wrapText_zero]
  · rw [wrapText, if_neg hw, List.length_nil, Nat.zero_add, Nat.div_eq_of_lt (by omega)]
    rfl

/-- The first line and its newline, then the text of the symbols behind it. -/
theorem wrapText_of_ne_nil (hw : 0 < w) (h : syms ≠ []) :
    wrapText w syms = syms.take w ++ newlineByte :: wrapText w (syms.drop w) := by
  have hpos := List.length_pos_iff.2 h
  have hlines : (syms.length + w - 1) / w = ((syms.drop w).length + w - 1) / w + 1 := by
    rw [List.length_drop, ← Nat.add_div_right _ hw]
    rcases Nat.le_total w syms.length with hle | hle
    · congr 1; omega
    · rw [Nat.sub_eq_zero_of_le hle, Nat.div_eq_of_lt_le (k := 1) (by omega) (by omega),
        Nat.div_eq_of_lt_le (k := 1) (by omega) (by omega)]
  rw [wrapText, if_neg hw.ne', wrapText, if_neg hw.ne', hlines, List.range_succ_eq_map, List.flatMap_cons,
    List.flatMap_map]
  simp [Nat.add_mul, Nat.add_comm]

/-- A fact about a text's lines holds of the text if it holds with one line more. -/
theorem lines_induction {P : List Byte → Prop} (hw : 0 < w) (hnil : P [])
    (hline : ∀ syms, syms ≠ [] → P (syms.drop w) → P syms) : ∀ syms, P syms := by
  intro syms
  induction hn : syms.length using Nat.strong_induction_on generalizing syms with
  | _ n ih =>
    by_cases h : syms = []
    · exact h ▸ hnil
    · have hpos := List.length_pos_iff.2 h
      exact hline syms h (ih _ (by rw [List.length_drop]; omega) _ rfl)

theorem wrapText_length (hw : 0 < w) (syms : List Byte) :
    (wrapText w syms).length = syms.length + (syms.length + w - 1) / w := by
  have hcover : syms.length ≤ (syms.length + w - 1) / w * w := by
    have := Nat.lt_div_mul_add (a := syms.length + w - 1) hw
    omega
  have hsymbols := congrArg List.length (flatMap_pieces w ((syms.length + w - 1) / w) syms)
  rw [List.take_of_length_le hcover, List.length_flatMap] at hsymbols
  rw [wrapText, if_neg hw.ne', List.length_flatMap]
  simp only [List.length_append, List.length_singleton, List.sum_map_add, hsymbols]
  simp

/-- A run without a newline is at most `w` long, wherever it stands in the text. -/
def RunsAtMost (w : Nat) (text : List Byte) : Prop :=
  ∀ a b c : List Byte, text = a ++ b ++ c → newlineByte ∉ b → b.length ≤ w

/-- A run cannot start at a newline. -/
theorem eq_nil_of_cons_eq_append {b c text : List Byte} (h : newlineByte :: text = b ++ c) (hb : newlineByte ∉ b) :
    b = [] := by
  cases b with
  | nil => rfl
  | cons x b =>
    obtain ⟨rfl, -⟩ := List.cons.inj h
    exact absurd List.mem_cons_self hb

/-- A run lies in the first line or in the text behind its newline. -/
theorem RunsAtMost.line {line text : List Byte} (hline : line.length ≤ w) (htext : RunsAtMost w text) :
    RunsAtMost w (line ++ newlineByte :: text) := by
  intro a b c heq hb
  rw [List.append_assoc] at heq
  obtain ⟨a', rfl, htail⟩ | ⟨mid, rfl, hrun⟩ := List.append_eq_append_iff.1 heq
  · cases a' with
    | nil => rw [eq_nil_of_cons_eq_append (c := c) htail hb]; exact Nat.zero_le _
    | cons x a' =>
      obtain ⟨-, htext'⟩ := List.cons.inj htail
      exact htext a' b c (htext'.trans (List.append_assoc _ _ _).symm) hb
  · rw [List.length_append] at hline
    obtain ⟨d, rfl, -⟩ | ⟨d, rfl, htail⟩ := List.append_eq_append_iff.1 hrun
    · rw [List.length_append] at hline
      omega
    · rw [List.mem_append, not_or] at hb
      rw [eq_nil_of_cons_eq_append htail hb.2, List.append_nil]
      omega

theorem runsAtMost_wrapText (hw : 0 < w) : ∀ syms, RunsAtMost w (wrapText w syms) := by
  refine lines_induction hw ?_ fun syms h ih => ?_
  · intro a b c heq _
    rw [wrapText_nil] at heq
    simp_all
  · rw [wrapText_of_ne_nil hw h]
    exact ih.line (by simp)

/-- Settles O48: the newlines are counted by the lines, filtered out to leave the symbols, and end every line of at most
`w` symbols. -/
theorem wrappedTextKeepsSymbols : Obligations.WrappedTextKeepsSymbols := by
  refine fun w syms => ⟨fun hw => hw ▸ wrapText_zero syms, fun hw => wrapText_length hw syms, fun hnl => ?_,
    fun hw => runsAtMost_wrapText hw syms⟩
  refine (filter_wrapText w syms).trans (List.filter_eq_self.2 fun c hc => ?_)
  rw [bne_iff_ne]
  rintro rfl
  exact hnl hc

end Sys2Proof.Machine
end

section
/-! The text the line wrapper writes symbol by symbol (45_line_wrapper.md R201 to R203), from any column, and that from
a line start it is the wrapped text (R206). -/
namespace Sys2Proof.Machine
variable {w c : Word} {x : Byte} {xs : List Byte}

/-- The line is full before the next symbol (R201). -/
def full (w c : Word) : Bool := w != 0#32 && c == w

/-- COL once a symbol is written on a line with room (R201, R202). -/
def nextCol (w c : Word) : Word := if w = 0#32 then c else c + 1#32

/-- The bytes that DRAIN writes for the symbols, from column `c`. -/
def lineText (w : Word) : Word → List Byte → List Byte
  | _, [] => []
  | c, x :: xs =>
    if full w c then newlineByte :: x :: lineText w (nextCol w 0#32) xs else x :: lineText w (nextCol w c) xs

/-- COL once DRAIN has written the symbols. -/
def lineCol (w : Word) : Word → List Byte → Word
  | c, [] => c
  | c, _ :: xs => if full w c then lineCol w (nextCol w 0#32) xs else lineCol w (nextCol w c) xs

/-- The newline of FINISH (R203). -/
def trailingText (w c : Word) : List Byte := if w ≠ 0#32 ∧ c ≠ 0#32 then [newlineByte] else []

/-- What DRAIN and FINISH write for the symbols left of a session, from column `c`. -/
def sessionText (w c : Word) (syms : List Byte) : List Byte := lineText w c syms ++ trailingText w (lineCol w c syms)

@[simp] theorem full_zero_col (w : Word) : full w 0#32 = false := by
  by_cases hw : w = 0#32
  · rw [hw]; rfl
  · rw [full, beq_eq_false_iff_ne.2 (Ne.symm hw), Bool.and_false]

theorem lineText_of_room (h : full w c = false) : lineText w c (x :: xs) = x :: lineText w (nextCol w c) xs := by
  rw [lineText, h, if_neg Bool.false_ne_true]

theorem lineCol_of_room (h : full w c = false) : lineCol w c (x :: xs) = lineCol w (nextCol w c) xs := by
  rw [lineCol, h, if_neg Bool.false_ne_true]

/-- On a full line the newline comes first and the rest is written from a line start. -/
theorem lineText_of_full (h : full w c = true) : lineText w c (x :: xs) = newlineByte :: lineText w 0#32 (x :: xs) := by
  rw [lineText_of_room (full_zero_col w), lineText, if_pos h]

theorem lineCol_of_full (h : full w c = true) : lineCol w c (x :: xs) = lineCol w 0#32 (x :: xs) := by
  rw [lineCol_of_room (full_zero_col w), lineCol, if_pos h]

theorem lineText_append (a b : List Byte) : lineText w c (a ++ b) = lineText w c a ++ lineText w (lineCol w c a) b := by
  induction a generalizing c with
  | nil => rfl
  | cons x a ih => cases h : full w c <;> simp [lineText, lineCol, h, ih]

theorem lineCol_append (a b : List Byte) : lineCol w c (a ++ b) = lineCol w (lineCol w c a) b := by
  induction a generalizing c with
  | nil => rfl
  | cons x a ih => cases h : full w c <;> simp [lineCol, h, ih]

/-- The column carries over a cut (44_stream_engine.md R184). -/
theorem sessionText_append (a b : List Byte) :
    sessionText w c (a ++ b) = lineText w c a ++ sessionText w (lineCol w c a) b := by
  rw [sessionText, lineText_append, lineCol_append, List.append_assoc, sessionText]

/-- With wrapping disabled the symbols are written as they are (R202). -/
theorem sessionText_no_wrap (c : Word) (syms : List Byte) : sessionText 0#32 c syms = syms := by
  have hroom (c : Word) : full 0#32 c = false := rfl
  have htext : lineText 0#32 c syms = syms := by
    induction syms with
    | nil => rfl
    | cons x xs ih =>
      rw [lineText_of_room (hroom c)]
      exact congrArg (x :: ·) ih
  rw [sessionText, htext]
  exact List.append_nil syms

/-- On a line with room for all of them the symbols are written as they are, and counted. -/
theorem line_of_fits (hw : w ≠ 0#32) (syms : List Byte) (h : c.toNat + syms.length ≤ w.toNat) :
    lineText w c syms = syms ∧ (lineCol w c syms).toNat = c.toNat + syms.length := by
  induction syms generalizing c with
  | nil => exact ⟨rfl, rfl⟩
  | cons x xs ih =>
    rw [List.length_cons] at h ⊢
    have hne : c ≠ w := by rintro rfl; omega
    have hroom : full w c = false := by simp [full, hne]
    have hnext : (nextCol w c).toNat = c.toNat + 1 := by
      rw [nextCol, if_neg hw]
      bv_omega
    obtain ⟨htext, hcol⟩ := ih (c := nextCol w c) (by omega)
    rw [lineText_of_room hroom, lineCol_of_room hroom, htext, hcol, hnext]
    exact ⟨rfl, by omega⟩

/-- From a full line the rest of a session is a newline and the rest from a line start. -/
theorem sessionText_of_full (h : full w c = true) {syms : List Byte} (hne : syms ≠ []) :
    sessionText w c syms = newlineByte :: sessionText w 0#32 syms := by
  obtain ⟨x, xs, rfl⟩ := List.exists_cons_of_ne_nil hne
  rw [sessionText, lineText_of_full h, lineCol_of_full h, List.cons_append, sessionText]

/-- From a line start a session writes the wrapped text (R206). -/
theorem sessionText_eq_wrapText (w : Word) (syms : List Byte) : sessionText w 0#32 syms = wrapText w.toNat syms := by
  by_cases hw : w = 0#32
  · rw [hw, sessionText_no_wrap]
    exact (wrapText_zero syms).symm
  have hpos : 0 < w.toNat := Nat.pos_of_ne_zero fun h => hw (BitVec.eq_of_toNat_eq h)
  revert syms
  refine lines_induction hpos ?_ fun syms hne ih => ?_
  · rw [wrapText_nil]
    simp [sessionText, lineText, lineCol, trailingText]
  · obtain ⟨htext, hcol⟩ := line_of_fits (c := 0#32) hw (syms.take w.toNat) (by simp)
    rw [wrapText_of_ne_nil hpos hne, ← ih]
    conv_lhs => rw [← List.take_append_drop w.toNat syms, sessionText_append, htext]
    congr 1
    by_cases hdrop : syms.drop w.toNat = []
    · have hmid : lineCol w 0#32 (syms.take w.toNat) ≠ 0#32 := by
        intro h
        have := List.length_pos_iff.2 hne
        rw [h, List.length_take] at hcol
        simp at hcol
        omega
      rw [hdrop]
      simp [sessionText, lineText, lineCol, trailingText, hw, hmid]
    · have hend : lineCol w 0#32 (syms.take w.toNat) = w := by
        have := List.length_pos_iff.2 hdrop
        rw [List.length_drop] at this
        apply BitVec.eq_of_toNat_eq
        rw [hcol, List.length_take]
        simp
        omega
      rw [hend, sessionText_of_full (by simp [full, hw]) hdrop]

end Sys2Proof.Machine
end

section
/-! Runs of a session with no host command due (44_stream_engine.md R171), and its last part: DRAIN and FINISH with
every write accepted (R178 to R181). -/
namespace Sys2Proof.Machine
variable {i : Instr} {s t u : State}

/-! Runs. -/

/-- Some number of steps leads from `s` to `t`. -/
abbrev Reaches : State → State → Prop := Relation.ReflTransGen fun s t => step s = .next t

theorem run_succ_of_next {M : Host.Core} {s u : M.State} (h : M.step s = .next u) (n : Nat) :
    M.run (n + 1) s = M.run n u := by
  rw [Host.Core.run, h]

theorem Reaches.exists_run (h : Reaches s t) : ∃ n, Sys2Proof.core.run n s = .next t := by
  induction h using Relation.ReflTransGen.head_induction_on with
  | refl => exact ⟨0, rfl⟩
  | head hstep _ ih =>
    obtain ⟨n, hn⟩ := ih
    exact ⟨n + 1, (run_succ_of_next (M := Sys2Proof.core) hstep n).trans hn⟩

/-- What holds all through a session: the parameters are allowed, no command is due, and CTRL selects the operation. -/
structure InSession (i : Instr) (s : State) : Prop where
  params : s.params.wf = true
  turns  : s.turns = []
  ctrl   : decode s.ctrl = .ok i

theorem sessionRunning_of_exec (h : exec i s = .next t) : sessionRunning s = true := by
  cases engineStep_of_exec h with
  | writeError hp => rcases hp with hp | hp <;> rw [sessionRunning, hp]
  | takeByte hp | takeEos hp | readError hp | endFill hp | pack hp | unpack hp | unpackLast hp | processError hp
  | breakLine hp | writeSymbol hp | writeByte hp | drained hp | lastNewline hp | finish hp => rw [sessionRunning, hp]

theorem InSession.step (hs : InSession i s) (h : exec i s = .next t) : step s = .next t := by
  rw [step_of_running hs.params (.inl ⟨rfl, hs.turns⟩) (sessionRunning_of_exec h) hs.ctrl, h]

theorem InSession.exec (hs : InSession i s) (h : exec i s = .next t) : InSession i t := by
  obtain ⟨hctrl, -, hturns, -, hparams⟩ := (engineStep_of_exec h).config
  exact ⟨hparams ▸ hs.params, hturns.trans hs.turns, hctrl ▸ hs.ctrl⟩

/-- A run of a session begins with the operation's engine step. -/
theorem InSession.reaches (hs : InSession i s) (h : Machine.exec i s = .next u) (hu : InSession i u → Reaches u t) :
    Reaches s t := .head (hs.step h) (hu (hs.exec h))

/-! DRAIN. -/

/-- The width DRAIN wraps at: a decode operation has no line wrapper (45_line_wrapper.md R200). -/
def drainWidth (i : Instr) (s : State) : Word :=
  match modeOf i with
  | .encode => s.wrap
  | .decode => 0#32

theorem drainWidth_of_encode (hm : modeOf i = .encode) : drainWidth i s = s.wrap := by rw [drainWidth, hm]

theorem drainWidth_of_decode (hm : modeOf i = .decode) : drainWidth i s = 0#32 := by rw [drainWidth, hm]

theorem countSymbol_eq_nextCol (s : State) : countSymbol s = { s with col := nextCol s.wrap s.col } := by
  by_cases hw : s.wrap = 0#32
  · rw [countSymbol_of_no_wrap hw, nextCol, if_pos hw]
  · rw [countSymbol_of_wrap hw, nextCol, if_neg hw]

section DrainByte
variable {w : Word} {more : List OutAnswer} (hp : s.phase = .drain) (hw : drainWidth i s = w) (hlt : s.opos < s.olen)
  (hack : s.acks = .ok :: more)
include hp hw hlt hack

theorem exec_drain_newline (h : full w s.col = true) :
    exec i s = .next { s with col := 0#32, acks := more, output := s.output ++ [newlineByte] } := by
  subst hw
  cases hm : modeOf i with
  | decode => rw [drainWidth_of_decode hm] at h; cases h
  | encode =>
    rw [drainWidth_of_encode hm] at h
    rw [exec_drain_of_encode hm hp, drainStep_of_lt hlt, drainByteEncode_of_full h, outWrite_of_ok hack]
    rfl

theorem exec_drain_symbol {b : Byte} (hb : readCell s.obuf s.opos = some b) (h : full w s.col = false) :
    exec i s = .next { s with opos := s.opos + 1, col := nextCol w s.col, acks := more,
                              output := s.output ++ [b] } := by
  subst hw
  cases hm : modeOf i with
  | decode =>
    rw [exec_drain_of_decode hm hp, drainStep_of_lt hlt, drainByteDecode, writeNext_of_written hb, outWrite_of_ok hack,
      drainWidth_of_decode hm]
    rfl
  | encode =>
    rw [drainWidth_of_encode hm] at h ⊢
    rw [exec_drain_of_encode hm hp, drainStep_of_lt hlt, drainByteEncode_of_room h hb, outWrite_of_ok hack,
      countSymbol_eq_nextCol]
    rfl

end DrainByte

theorem readCells_cons {m : Memory} {n k : Nat} {x : Byte} {xs : List Byte}
    (h : readCells m n (k + 1) = some (x :: xs)) : readCell m n = some x ∧ readCells m (n + 1) k = some xs := by
  rw [readCells] at h
  split at h
  · cases h
    exact ⟨‹_›, ‹_›⟩
  · cases h

/-- The state at the end of DRAIN: the symbols `rem` are written through a wrapper of width `w`, and of the host's
answers `more` are left. -/
def afterDrain (w : Word) (rem : List Byte) (more : List OutAnswer) (s : State) : State :=
  { s with opos := s.olen, col := lineCol w s.col rem, acks := more, output := s.output ++ lineText w s.col rem }

section AfterDrain
variable {w : Word} {x : Byte} {xs : List Byte} {more acks : List OutAnswer}

theorem afterDrain_nil (hend : s.opos = s.olen) (hack : s.acks = more) : afterDrain w [] more s = s := by
  cases s
  simp_all [afterDrain, lineCol, lineText]

theorem afterDrain_newline (h : full w s.col = true) :
    afterDrain w (x :: xs) more { s with col := 0#32, acks := acks, output := s.output ++ [newlineByte] } =
      afterDrain w (x :: xs) more s := by
  simp [afterDrain, lineCol_of_full h, lineText_of_full h]

theorem afterDrain_symbol {n : Nat} (h : full w s.col = false) :
    afterDrain w xs more { s with opos := n, col := nextCol w s.col, acks := acks, output := s.output ++ [x] } =
      afterDrain w (x :: xs) more s := by
  simp [afterDrain, lineCol_of_room h, lineText_of_room h]

end AfterDrain

/-- With every write accepted, DRAIN writes the rest of OBUF through the wrapper. -/
theorem drain_reaches {w : Word} {rem : List Byte} {more : List OutAnswer} (hs : InSession i s) (hp : s.phase = .drain)
    (hw : drainWidth i s = w) (hlen : s.opos + rem.length = s.olen)
    (hread : readCells s.obuf s.opos rem.length = some rem)
    (hack : s.acks = List.replicate (lineText w s.col rem).length .ok ++ more) :
    Reaches s (afterDrain w rem more s) := by
  induction rem generalizing s with
  | nil => rw [afterDrain_nil (more := more) hlen hack]
  | cons x xs ih =>
    obtain ⟨hb, hrest⟩ := readCells_cons hread
    rw [List.length_cons] at hlen
    have hlt : s.opos < s.olen := by omega
    have symbol (u : State) (heq : { s with col := u.col, acks := u.acks, output := u.output } = u)
        (hroom : full w u.col = false)
        (hack : u.acks = List.replicate (lineText w u.col (x :: xs)).length .ok ++ more) (hu : InSession i u) :
        Reaches u (afterDrain w (x :: xs) more u) := by
      generalize u.col = c, u.acks = acks, u.output = out at heq hroom hack
      subst heq
      rw [lineText_of_room hroom, List.length_cons, List.replicate_succ] at hack
      have hexec := exec_drain_symbol (i := i) (s := { s with col := c, acks := acks, output := out }) hp hw hlt hack
        hb hroom
      refine hu.reaches hexec fun hv => ?_
      rw [← afterDrain_symbol hroom]
      exact ih hv hp hw (by dsimp only; omega) hrest rfl
    cases hfull : full w s.col with
    | false => exact symbol s rfl hfull hack hs
    | true =>
      rw [lineText_of_full hfull, List.length_cons, List.replicate_succ] at hack
      rw [← afterDrain_newline hfull]
      exact hs.reaches (exec_drain_newline hp hw hlt hack hfull) (symbol _ rfl (full_zero_col w) rfl)

/-- DRAIN to its end (R180). -/
theorem drain_end_reaches {w : Word} {rem : List Byte} {more : List OutAnswer} (hs : InSession i s)
    (hp : s.phase = .drain) (hw : drainWidth i s = w) (hlen : s.opos + rem.length = s.olen)
    (hread : readCells s.obuf s.opos rem.length = some rem)
    (hack : s.acks = List.replicate (lineText w s.col rem).length .ok ++ more) :
    Reaches s (endDrain (afterDrain w rem more s)) := by
  have hend : exec i (afterDrain w rem more s) = .next (endDrain (afterDrain w rem more s)) := exec_drain_of_eq hp rfl
  have hd : InSession i (afterDrain w rem more s) := ⟨hs.params, hs.turns, hs.ctrl⟩
  exact (drain_reaches hs hp hw hlen hread hack).trans (hd.reaches hend fun _ => .refl)

/-! FINISH. -/

/-- The trailing newline, or none (R181). -/
theorem exec_finish {w : Word} {more : List OutAnswer} (hp : s.phase = .finish) (hw : drainWidth i s = w)
    (hack : s.acks = List.replicate (trailingText w s.col).length .ok ++ more) :
    exec i s = .next { s with phase := .done, col := if w = 0#32 then s.col else 0#32, acks := more,
                              output := s.output ++ trailingText w s.col } := by
  by_cases hmid : w ≠ 0#32 ∧ s.col ≠ 0#32
  · obtain ⟨hne, hcol⟩ := hmid
    have hm : modeOf i = .encode := encode_of_ne_decode fun h => hne (hw.symm.trans (drainWidth_of_decode h))
    have htext : trailingText w s.col = [newlineByte] := if_pos ⟨hne, hcol⟩
    have hwrap : s.wrap ≠ 0#32 := by rwa [← drainWidth_of_encode hm, hw]
    rw [htext] at hack ⊢
    rw [exec_finish_of_midLine hm hp hwrap hcol, outWrite_of_ok hack, if_neg hne]
    rfl
  · have htext : trailingText w s.col = [] := if_neg hmid
    have hcol : (if w = 0#32 then s.col else 0#32) = s.col := by
      by_cases hzero : w = 0#32
      · rw [if_pos hzero]
      · rw [if_neg hzero]
        exact (not_not.1 fun h => hmid ⟨hzero, h⟩).symm
    have hline : modeOf i = .decode ∨ s.wrap = 0#32 ∨ s.col = 0#32 := by
      cases hm : modeOf i with
      | decode => exact .inl rfl
      | encode =>
        rw [← hw, drainWidth_of_encode hm, not_and_or, not_not, not_not] at hmid
        exact .inr hmid
    rw [htext] at hack ⊢
    rw [exec_finish_of_lineStart hp hline, hcol, List.append_nil, ← show s.acks = more from hack]
    rfl

/-- With every write accepted, the last chunk's DRAIN and FINISH write the rest of the session's text. -/
theorem drain_finish_reaches {w : Word} {rem : List Byte} {more : List OutAnswer} (hs : InSession i s)
    (hp : s.phase = .drain) (he : s.eos = true) (hw : drainWidth i s = w) (hlen : s.opos + rem.length = s.olen)
    (hread : readCells s.obuf s.opos rem.length = some rem)
    (hack : s.acks = List.replicate (sessionText w s.col rem).length .ok ++ more) :
    ∃ t, Reaches s t ∧ t.phase = .done ∧ t.err = s.err ∧ t.acks = more ∧
      t.output = s.output ++ sessionText w s.col rem ∧ t.input = s.input := by
  rw [sessionText, List.length_append, ← List.replicate_append_replicate, List.append_assoc] at hack
  generalize htrail : List.replicate (trailingText w (lineCol w s.col rem)).length .ok ++ more = answers at hack
  have hdrain := drain_end_reaches hs hp hw hlen hread hack
  rw [endDrain_of_eos (s := afterDrain w rem answers s) he] at hdrain
  have hfinish := exec_finish (i := i) (s := enterPhase .finish (afterDrain w rem answers s)) rfl hw htrail.symm
  have hf : InSession i (enterPhase .finish (afterDrain w rem answers s)) := ⟨hs.params, hs.turns, hs.ctrl⟩
  exact ⟨_, hdrain.trans (hf.reaches hfinish fun _ => .refl), rfl, rfl, rfl, List.append_assoc _ _ _, rfl⟩

/-- Settles O49: from a line start DRAIN and FINISH write the wrapped text. -/
theorem finalDrainWritesWrappedText : Obligations.FinalDrainWritesWrappedText := by
  intro i s syms hm hw hdec hturns hp he hcol hopos holen hread rest hack
  rw [← sessionText_eq_wrapText, ← hcol] at hack
  rw [holen, ← hopos] at hread
  obtain ⟨t, hreach, hphase, herr, hacks, hout, -⟩ := drain_finish_reaches ⟨hw, hturns, hdec⟩ hp he
    (drainWidth_of_encode hm) (by omega) hread hack
  obtain ⟨n, hn⟩ := hreach.exists_run
  rw [hcol, sessionText_eq_wrapText] at hout
  exact ⟨n, t, hn, hphase, herr, hacks, hout⟩

end Sys2Proof.Machine
end

section
/-! A session's chunks (44_stream_engine.md section 2): what one chunk contributes, with the group carried from chunk to
chunk, and that the chunks together give the functional result (R183 to R185). -/
namespace Sys2Proof.Machine
variable {low : Bool} {i : Instr} {grp : List Nat} {sc : Scheme}

/-- What a chunk that is not the last gives: the group carried on and the bytes for OBUF, or the error. -/
def packChunk (low : Bool) (i : Instr) (grp : List Nat) (data : List Byte) : Except ErrorKind (List Nat × List Byte) :=
  match modeOf i with
  | .encode => (encodeSymbols (schemeOf i) data).map fun syms => (grp, syms)
  | .decode => scan low (schemeOf i) (ignoreGarbageOf i) grp data

/-- What the end of the input adds: nothing on encode, and on decode the end rule's bytes (42_radix_decode.md R135). -/
def endChunk (i : Instr) (grp : List Nat) : Except ErrorKind (List Byte) :=
  match modeOf i with
  | .encode => .ok []
  | .decode => finishGroup (schemeOf i) grp

/-- What the rest of a session's input gives, from the group carried into it. -/
def sessionSymbols (low : Bool) (i : Instr) (grp : List Nat) (data : List Byte) : Except ErrorKind (List Byte) :=
  (packChunk low i grp data).bind fun r => (endChunk i r.1).map (r.2 ++ ·)

section Modes
variable {data : List Byte}

theorem packChunk_of_encode (hm : modeOf i = .encode) :
    packChunk low i grp data = (encodeSymbols (schemeOf i) data).map fun syms => (grp, syms) := by
  rw [packChunk, hm]

theorem packChunk_of_decode (hm : modeOf i = .decode) :
    packChunk low i grp data = scan low (schemeOf i) (ignoreGarbageOf i) grp data := by
  rw [packChunk, hm]

theorem sessionSymbols_of_encode (hm : modeOf i = .encode) :
    sessionSymbols low i grp data = encodeSymbols (schemeOf i) data := by
  rw [sessionSymbols, packChunk_of_encode hm]
  cases encodeSymbols (schemeOf i) data <;> simp [endChunk, hm, Except.map, Except.bind]

theorem sessionSymbols_of_decode (hm : modeOf i = .decode) : sessionSymbols low i grp data =
    (scan low (schemeOf i) (ignoreGarbageOf i) grp data).bind fun r =>
      (finishGroup (schemeOf i) r.1).map (r.2 ++ ·) := by
  rw [sessionSymbols, packChunk_of_decode hm]
  simp only [endChunk, hm]

end Modes

/-- The bytes of a session, wrapped where the operation wraps, are its functional result (R185). -/
theorem sessionResult_eq (low : Bool) (i : Instr) (s : State) (inp : List Byte) : sessionResult low s.wrap i inp =
    (sessionSymbols low i [] inp).map (sessionText (drainWidth i s) 0#32) := by
  cases hm : modeOf i with
  | encode =>
    have hwrap : sessionText s.wrap 0#32 = wrapText s.wrap.toNat := funext (sessionText_eq_wrapText s.wrap)
    rw [sessionResult_of_encode hm, sessionSymbols_of_encode hm, drainWidth_of_encode hm, hwrap]
  | decode =>
    have hid : sessionText 0#32 0#32 = id := funext (sessionText_no_wrap 0#32)
    rw [sessionResult_of_decode hm, sessionSymbols_of_decode hm, drainWidth_of_decode hm, hid, decodeText]
    cases scan low (schemeOf i) (ignoreGarbageOf i) [] inp with
    | error k => rfl
    | ok r => cases h : finishGroup (schemeOf i) r.1 <;> simp [Except.bind, Except.map, h]

/-- Symbols behind whole blocks are packed on their own (20_memory.md section 4). -/
theorem encodeSymbols_append {a b : List Byte} (ha : a.length % blockBytes sc = 0) :
    encodeSymbols sc (a ++ b) = (encodeSymbols sc a).bind fun x => (encodeSymbols sc b).map (x ++ ·) := by
  by_cases hz : sc = .z85
  · subst hz
    have hok : encodeSymbols .z85 a = .ok _ := encZ85_of_aligned ha
    rw [hok]
    by_cases hb : b.length % 4 = 0
    · have hokb : encodeSymbols .z85 b = .ok _ := encZ85_of_aligned hb
      rw [hokb]
      exact encodingMayBeCutAtBlocks.2.2 a b _ _ hok hokb
    · have hab : (a ++ b).length % 4 ≠ 0 := by
        have ha : a.length % 4 = 0 := ha
        rw [List.length_append]
        omega
      have herr : encodeSymbols .z85 b = .error .misalignedLength := encZ85_of_misaligned hb
      rw [herr]
      exact encZ85_of_misaligned hab
  · rw [encodeSymbols_of_radix hz, encodeSymbols_of_radix hz, encodeSymbols_of_radix hz, encRadix_append ha]
    rfl

/-- A session's input may be cut where a chunk ends (R184): on encode that is at whole blocks. -/
theorem sessionSymbols_append {a b : List Byte} (ha : modeOf i = .encode → a.length % blockBytes (schemeOf i) = 0) :
    sessionSymbols low i grp (a ++ b) =
      (packChunk low i grp a).bind fun r => (sessionSymbols low i r.1 b).map (r.2 ++ ·) := by
  cases hm : modeOf i with
  | encode =>
    simp only [sessionSymbols_of_encode hm, packChunk_of_encode hm, encodeSymbols_append (ha hm)]
    cases encodeSymbols (schemeOf i) a <;> rfl
  | decode =>
    simp only [sessionSymbols_of_decode hm, packChunk_of_decode hm, scan_append]
    cases scan low (schemeOf i) (ignoreGarbageOf i) grp a with
    | error k => rfl
    | ok r =>
      cases hb : scan low (schemeOf i) (ignoreGarbageOf i) r.1 b with
      | error k => simp [Except.bind, Except.map, hb]
      | ok q => cases hend : finishGroup (schemeOf i) q.1 <;> simp [Except.bind, Except.map, hb, hend]

end Sys2Proof.Machine
end

section
/-! One chunk of a session (44_stream_engine.md R173 to R176): FILL stores it, and PROCESS commits what it gives. -/
namespace Sys2Proof.Machine
variable {i : Instr} {s t : State} {grp mid : List Nat} {data out syms : List Byte} {k : ErrorKind}

/-! FILL. -/

theorem fill_reaches {bs : List Byte} {more : List InItem} (hs : InSession i s) (hp : s.phase = .fill)
    (he : s.eos = false) (hin : s.input = bs.map .byte ++ more)
    (hfit : s.ilen + bs.length ≤ inCap s.params (modeOf i)) :
    Reaches s { s with ibuf := writeCells s.ibuf s.ilen bs, ilen := s.ilen + bs.length, input := more } := by
  induction bs generalizing s with
  | nil =>
    have hin : s.input = more := hin
    subst hin
    exact .refl
  | cons b bs ih =>
    rw [List.length_cons] at hfit
    have hexec : exec i s = .next (pushByte b (consumeItem (bs.map .byte ++ more) s)) :=
      (exec_fill hp i).trans (fillStep_of_byte (by omega) he hin)
    have hrest := fun h => ih (s := pushByte b (consumeItem (bs.map .byte ++ more) s)) h hp he rfl
      (by simp only [pushByte_ilen, consumeItem_ilen, pushByte_params, consumeItem_params]; omega)
    rw [List.length_cons, ← Nat.add_assoc, Nat.add_right_comm]
    exact hs.reaches hexec hrest

/-! The group carried in CARRY. -/

theorem carriedGroup_lt (s : State) : ∀ v ∈ carriedGroup s, v < 2 ^ 7 := by
  intro v hv
  obtain ⟨x, -, rfl⟩ := List.mem_map.1 hv
  exact x.isLt

/-- A stored group of 7-bit values is read back (10_state.md R35). -/
theorem carriedGroup_keepGroup (h : grp.length < 8) (hv : ∀ v ∈ grp, v < 2 ^ 7) :
    carriedGroup (keepGroup grp h s) = grp := by
  have htake : ((storeCarry s.carry grp h).toList.take grp.length) = grp.map (BitVec.ofNat 7) := by
    change (grp.map (BitVec.ofNat 7) ++ s.carry.toList.drop grp.length).take grp.length = _
    rw [List.take_append_of_le_length (by simp), List.take_of_length_le (by simp)]
  change ((storeCarry s.carry grp h).toList.take grp.length).map BitVec.toNat = grp
  rw [htake, List.map_map]
  refine (List.map_congr_left fun v hmem => ?_).trans (List.map_id grp)
  exact (BitVec.toNat_ofNat v 7).trans (Nat.mod_eq_of_lt (hv v hmem))

/-- The group a scan leaves is of 7-bit values if the group before it is: symbol values are below 85. -/
theorem scan_left_lt {low g : Bool} {sc : Scheme} (hl : grp.length < groupSymbols sc) (hv : ∀ v ∈ grp, v < 2 ^ 7)
    (h : scan low sc g grp data = .ok (mid, out)) : ∀ v ∈ mid, v < 2 ^ 7 := by
  rw [scan_eq data hl] at h
  split at h
  · cases h
  · cases h
    intro v hmem
    rcases List.mem_append.1 (List.mem_of_mem_drop hmem) with hgrp | hsyms
    · exact hv v hgrp
    · obtain ⟨c, -, hc⟩ := List.mem_filterMap.1 hsyms
      rw [symbolOf_eq_lookup] at hc
      have hradix : radix sc < 2 ^ 7 := by cases sc <;> decide
      exact (lookup_lt_radix hc).trans hradix

/-! PROCESS. -/

section Process
variable (hp : s.phase = .process) (hl : s.ilen ≤ inCap s.params (modeOf i))
  (hd : readCells s.ibuf 0 s.ilen = some data) (hc : s.carryCnt < groupSymbols (schemeOf i))
include hp hl hd

/-- A chunk that is in error is the error entry, whether it is the last or not. -/
theorem exec_process_of_chunkError (h : packChunk s.params.b16DecodeLowercase i (carriedGroup s) data = .error k) :
    exec i s = .next (raise k s) := by
  cases hm : modeOf i with
  | encode =>
    rw [hm] at hl
    rw [packChunk_of_encode hm, map_eq_error_iff] at h
    rw [exec_process_of_encode hm hp, encodeProcess_of_error hl hd h]
  | decode =>
    rw [hm] at hl
    rw [packChunk_of_decode hm] at h
    rw [exec_process_of_decode hm hp, decodeProcess_of_scanError hl hd h]

include hc

/-- A chunk that is not the last is committed, and its group carried on. -/
theorem exec_process_of_notFinal (he : s.eos = false)
    (h : packChunk s.params.b16DecodeLowercase i (carriedGroup s) data = .ok (mid, out)) :
    ∃ u, exec i s = .next (commitOutput out u) ∧ u = { s with carry := u.carry, carryCnt := u.carryCnt } ∧
      carriedGroup u = mid ∧ u.carryCnt < groupSymbols (schemeOf i) := by
  cases hm : modeOf i with
  | encode =>
    rw [hm] at hl
    rw [packChunk_of_encode hm] at h
    cases hsyms : encodeSymbols (schemeOf i) data with
    | error k => rw [hsyms] at h; cases h
    | ok syms =>
      rw [hsyms] at h
      cases h
      rw [exec_process_of_encode hm hp, encodeProcess_of_packed hl hd hsyms]
      exact ⟨s, rfl, rfl, rfl, hc⟩
  | decode =>
    rw [hm] at hl
    rw [packChunk_of_decode hm] at h
    have hgrp := carriedGroup_length_lt hc
    have hleft := scan_left_length hgrp h
    have hfit : mid.length < 8 := hleft.trans_le (groupSymbols_bounds _).2
    rw [exec_process_of_decode hm hp, decodeProcess_of_notFinal hl hd h he hfit]
    exact ⟨_, rfl, rfl, carriedGroup_keepGroup hfit (scan_left_lt hgrp (carriedGroup_lt s) h), hleft⟩

omit hc

/-- The last chunk is committed with what the end of the input adds, or is the error entry. -/
theorem exec_process_of_final (he : s.eos = true) :
    (∀ syms, sessionSymbols s.params.b16DecodeLowercase i (carriedGroup s) data = .ok syms →
      ∃ u, exec i s = .next (commitOutput syms u) ∧ u = { s with carryCnt := u.carryCnt }) ∧
    (∀ k, sessionSymbols s.params.b16DecodeLowercase i (carriedGroup s) data = .error k →
      exec i s = .next (raise k s)) := by
  cases hm : modeOf i with
  | encode =>
    rw [hm] at hl
    rw [sessionSymbols_of_encode hm, exec_process_of_encode hm hp]
    exact ⟨fun syms h => ⟨s, encodeProcess_of_packed hl hd h, rfl⟩, fun k h => encodeProcess_of_error hl hd h⟩
  | decode =>
    rw [hm] at hl
    rw [sessionSymbols_of_decode hm, exec_process_of_decode hm hp]
    cases hscan : scan s.params.b16DecodeLowercase (schemeOf i) (ignoreGarbageOf i) (carriedGroup s) data with
    | error k =>
      refine ⟨fun syms h => (nomatch h), fun k' h => ?_⟩
      cases h
      exact decodeProcess_of_scanError hl hd hscan
    | ok r =>
      obtain ⟨left, out⟩ := r
      dsimp only [Except.bind]
      cases hend : finishGroup (schemeOf i) left with
      | error k =>
        refine ⟨fun syms h => (nomatch h), fun k' h => ?_⟩
        cases h
        exact decodeProcess_of_endError hl hd hscan he hend
      | ok tail =>
        refine ⟨fun syms h => ?_, fun k' h => (nomatch h)⟩
        cases h
        exact ⟨_, decodeProcess_of_final hl hd hscan he hend, rfl⟩

end Process

end Sys2Proof.Machine
end

section
/-! Whole sessions (44_stream_engine.md R184, R185): chunk after chunk, for every allowed chunk size, the engine writes
the functional result. -/
namespace Sys2Proof.Machine
variable {i : Instr} {s t u : State} {grp : List Nat} {inp : List Byte} {rest : List InItem}

/-- A session where a chunk begins: `grp` is carried, and the host has `inp` and then EOS to give. -/
structure ChunkStart (i : Instr) (grp : List Nat) (inp : List Byte) (rest : List InItem) (s : State) : Prop where
  session  : InSession i s
  phase    : s.phase = .fill
  eos      : s.eos = false
  ilen     : s.ilen = 0
  input    : s.input = inp.map .byte ++ .eos :: rest
  carried  : carriedGroup s = grp
  carryCnt : s.carryCnt < groupSymbols (schemeOf i)

/-- How the part of a session from `s` to `t` ends, with `r` what it has to write and `rest` the input it leaves to the
host (R185, R189). -/
def EndsAs (r : Except ErrorKind (List Byte)) (rest : List InItem) (s t : State) : Prop :=
  match r with
  | .ok o => t.phase = .done ∧ t.err = s.err ∧ t.output = s.output ++ o ∧ t.input = rest
  | .error k => t.phase = .error ∧ t.err = some k

/-- From `s` the session ends as `r` says, if the host has at least `n` answers OK to give. -/
def SessionEnds (r : Except ErrorKind (List Byte)) (rest : List InItem) (n : Nat) (s : State) : Prop :=
  ∀ more, s.acks = List.replicate n .ok ++ more → ∃ t, Reaches s t ∧ EndsAs r rest s t

/-! FILL to its end. -/

/-- The chunk `data` is in IBUF, and the host has `input` still to give. -/
def stored (data : List Byte) (input : List InItem) (s : State) : State :=
  { s with ibuf := writeCells s.ibuf 0 data, ilen := data.length, input := input }

/-- FILL is over, with the chunk `data` in IBUF. -/
def filled (data : List Byte) (eos : Bool) (input : List InItem) (s : State) : State :=
  { stored data input s with eos := eos, phase := .process }

namespace ChunkStart

theorem session_stored (hs : ChunkStart i grp inp rest s) (a : List Byte) (more : List InItem) :
    InSession i (stored a more s) := ⟨hs.session.params, hs.session.turns, hs.session.ctrl⟩

theorem session_filled (hs : ChunkStart i grp inp rest s) (a : List Byte) (eos : Bool) (more : List InItem) :
    InSession i (filled a eos more s) := ⟨hs.session.params, hs.session.turns, hs.session.ctrl⟩

theorem reaches_stored {a : List Byte} {more : List InItem} (hs : ChunkStart i grp inp rest s)
    (hin : s.input = a.map .byte ++ more) (hlen : a.length ≤ inCap s.params (modeOf i)) :
    Reaches s (stored a more s) := by
  have hfill := fill_reaches hs.session hs.phase hs.eos hin (by rw [hs.ilen]; omega)
  rwa [hs.ilen, Nat.zero_add] at hfill

/-- An input that does not fill IBUF is the last chunk (R173, R174). -/
theorem reaches_last (hs : ChunkStart i grp inp rest s) (hlen : inp.length < inCap s.params (modeOf i)) :
    Reaches s (filled inp true rest s) := by
  have hstored := hs.reaches_stored hs.input hlen.le
  have hsession := hs.session_stored inp (.eos :: rest)
  have hp : (stored inp (.eos :: rest) s).phase = .fill := hs.phase
  have heos : exec i (stored inp (.eos :: rest) s) =
      .next (setEos (consumeItem rest (stored inp (.eos :: rest) s))) :=
    (exec_fill hp i).trans (fillStep_of_eos hlen hs.eos rfl)
  have hend : exec i (setEos (consumeItem rest (stored inp (.eos :: rest) s))) = .next (filled inp true rest s) :=
    (exec_fill (s := setEos (consumeItem rest (stored inp (.eos :: rest) s))) hp i).trans (fillStep_of_end (.inr rfl))
  exact hstored.trans (hsession.reaches heos fun h => h.reaches hend fun _ => .refl)

/-- An input that fills IBUF is cut where IBUF is full. -/
theorem reaches_full {a : List Byte} {more : List InItem} (hs : ChunkStart i grp inp rest s)
    (hin : s.input = a.map .byte ++ more) (hlen : a.length = inCap s.params (modeOf i)) :
    Reaches s (filled a false more s) := by
  have hp : (stored a more s).phase = .fill := hs.phase
  have hend : exec i (stored a more s) = .next (filled a false more s) := by
    rw [exec_fill hp, filled, ← hs.eos]
    exact fillStep_of_end (s := stored a more s) (.inl hlen)
  exact (hs.reaches_stored hin hlen.le).trans ((hs.session_stored a more).reaches hend fun _ => .refl)

end ChunkStart

/-! The last chunk. -/

theorem SessionEnds.of_reaches_error {k : ErrorKind} (n : Nat) (h : Reaches s (raise k u)) :
    SessionEnds (.error k) rest n s := fun _ _ => ⟨_, h, rfl, rfl⟩

/-- The answers the last chunk asks for. -/
def lastAnswers (w c : Word) : Except ErrorKind (List Byte) → Nat
  | .ok syms => (sessionText w c syms).length
  | .error _ => 0

/-- The end of a session: the last chunk, to DONE or ERROR. -/
theorem ChunkStart.last_ends (hs : ChunkStart i grp inp rest s) (hlen : inp.length < inCap s.params (modeOf i)) :
    SessionEnds ((sessionSymbols s.params.b16DecodeLowercase i grp inp).map (sessionText (drainWidth i s) s.col)) rest
      (lastAnswers (drainWidth i s) s.col (sessionSymbols s.params.b16DecodeLowercase i grp inp)) s := by
  have hfilled := hs.reaches_last hlen
  have hsession := hs.session_filled inp true rest
  obtain ⟨hok, herr⟩ := exec_process_of_final (i := i) (s := filled inp true rest s) rfl hlen.le
    (readCells_writeCells _ _) rfl
  rw [show carriedGroup (filled inp true rest s) = grp from hs.carried] at hok herr
  cases hsyms : sessionSymbols s.params.b16DecodeLowercase i grp inp with
  | error k => exact .of_reaches_error _ (hfilled.trans (hsession.reaches (herr k hsyms) fun _ => .refl))
  | ok syms =>
    intro more hack
    obtain ⟨u, hexec, hu⟩ := hok syms hsyms
    obtain ⟨n, rfl⟩ : ∃ n, u = { filled inp true rest s with carryCnt := n } := ⟨_, hu⟩
    obtain ⟨t, hdrain, hphase, hterr, -, hout, hin⟩ := drain_finish_reaches (hsession.exec hexec) rfl rfl rfl
      (Nat.zero_add _) (readCells_writeCells _ _) hack
    exact ⟨t, hfilled.trans (hsession.reaches hexec fun _ => hdrain), hphase, hterr, hout, hin⟩

/-! A full chunk. -/

/-- What holds where the next chunk begins, after a chunk that gave `out`. -/
structure ChunkDone (i : Instr) (out : List Byte) (more : List OutAnswer) (s v : State) : Prop where
  params : v.params = s.params
  width  : drainWidth i v = drainWidth i s
  col    : v.col = lineCol (drainWidth i s) s.col out
  acks   : v.acks = more
  output : v.output = s.output ++ lineText (drainWidth i s) s.col out
  err    : v.err = s.err

section FullChunk
variable {a b : List Byte} (hs : ChunkStart i grp (a ++ b) rest s)
include hs

theorem ChunkStart.input_split : s.input = a.map .byte ++ (b.map .byte ++ .eos :: rest) := by
  rw [hs.input, List.map_append, List.append_assoc]

variable (hlen : a.length = inCap s.params (modeOf i))
include hlen

theorem ChunkStart.full_error {k : ErrorKind} (h : packChunk s.params.b16DecodeLowercase i grp a = .error k) :
    ∃ u, Reaches s (raise k u) := by
  have hfilled := hs.reaches_full hs.input_split hlen
  have hexec := exec_process_of_chunkError (i := i) (s := filled a false (b.map .byte ++ .eos :: rest) s) rfl hlen.le
    (readCells_writeCells _ _) ((congrArg (packChunk _ i · a) hs.carried).trans h)
  exact ⟨_, hfilled.trans ((hs.session_filled a false _).reaches hexec fun _ => .refl)⟩

theorem ChunkStart.full_reaches {mid : List Nat} {out : List Byte} {more : List OutAnswer}
    (h : packChunk s.params.b16DecodeLowercase i grp a = .ok (mid, out))
    (hack : s.acks = List.replicate (lineText (drainWidth i s) s.col out).length .ok ++ more) :
    ∃ v, Reaches s v ∧ ChunkStart i mid b rest v ∧ ChunkDone i out more s v := by
  have hfilled := hs.reaches_full hs.input_split hlen
  have hsession := hs.session_filled a false (b.map .byte ++ .eos :: rest)
  obtain ⟨u, hexec, hu, hcarried, hcnt⟩ := exec_process_of_notFinal (i := i)
    (s := filled a false (b.map .byte ++ .eos :: rest) s) rfl hlen.le (readCells_writeCells _ _) hs.carryCnt rfl
    ((congrArg (packChunk _ i · a) hs.carried).trans h)
  have hcommitted := hsession.exec hexec
  generalize u.carry = carry, u.carryCnt = n at hu
  subst hu
  have hdrain := drain_end_reaches hcommitted rfl rfl (Nat.zero_add _) (readCells_writeCells _ _) hack
  rw [endDrain_of_not_eos rfl] at hdrain
  refine ⟨_, hfilled.trans (hsession.reaches hexec fun _ => hdrain), ?_, ?_⟩
  · exact ⟨⟨hs.session.params, hs.session.turns, hs.session.ctrl⟩, rfl, rfl, rfl, rfl, hcarried, hcnt⟩
  · exact ⟨rfl, rfl, rfl, rfl, rfl, rfl⟩

end FullChunk

/-! All chunks. -/

theorem inCap_pos {p : Params} (h : p.wf = true) (m : Mode) : 0 < inCap p m := by
  have hbounds : 0 < p.encChunk ∧ 1 ≤ p.decChunk := by simp_all [Params.wf]
  cases m with
  | encode => exact hbounds.1
  | decode => exact hbounds.2

/-- A full chunk of an encode session is a whole number of blocks (R175). -/
theorem full_chunk_blocks {p : Params} (h : p.wf = true) {a : List Byte} (hlen : a.length = inCap p (modeOf i)) :
    modeOf i = .encode → a.length % blockBytes (schemeOf i) = 0 := by
  intro hm
  rw [hlen, hm]
  exact Nat.mod_eq_zero_of_dvd (blockBytes_dvd_encChunk h _)

/-- What a chunk wrote and how the rest ends make up how the whole ends (R184). -/
theorem ChunkDone.endsAs {out : List Byte} {more : List OutAnswer} {r : Except ErrorKind (List Byte)} {w : Word}
    (h : ChunkDone i out more s u) (hw : drainWidth i s = w)
    (hrest : EndsAs (r.map (sessionText w (lineCol w s.col out))) rest u t) :
    EndsAs ((r.map (out ++ ·)).map (sessionText w s.col)) rest s t := by
  subst hw
  cases r with
  | error k => exact hrest
  | ok syms =>
    obtain ⟨hphase, herr, hout, hin⟩ := hrest
    refine ⟨hphase, herr.trans h.err, ?_, hin⟩
    rw [hout, h.output, List.append_assoc, sessionText_append]

/-- From the beginning of a chunk every session ends as its functional result says: the last chunk ends it, and a full
one leaves a session with less input. The number of answers depends on what is named here alone. -/
theorem session_ends (i : Instr) (p : Params) (hp : p.wf = true) (w c : Word) (grp : List Nat) (inp : List Byte)
    (rest : List InItem) : ∃ n, ∀ s, ChunkStart i grp inp rest s → s.params = p → drainWidth i s = w → s.col = c →
      SessionEnds ((sessionSymbols p.b16DecodeLowercase i grp inp).map (sessionText w c)) rest n s := by
  induction hn : inp.length using Nat.strong_induction_on generalizing inp grp c with
  | _ len ih =>
    by_cases hlast : inp.length < inCap p (modeOf i)
    · refine ⟨lastAnswers w c (sessionSymbols p.b16DecodeLowercase i grp inp), fun s hs hparams hw hc => ?_⟩
      subst hparams hw hc
      exact hs.last_ends hlast
    · obtain ⟨a, b, rfl, hlen⟩ : ∃ a b, inp = a ++ b ∧ a.length = inCap p (modeOf i) :=
        ⟨_, _, (List.take_append_drop (inCap p (modeOf i)) inp).symm, by rw [List.length_take]; omega⟩
      rw [sessionSymbols_append (full_chunk_blocks hp hlen)]
      cases hchunk : packChunk p.b16DecodeLowercase i grp a with
      | error k =>
        refine ⟨0, fun s hs hparams _ _ => ?_⟩
        subst hparams
        obtain ⟨u, hu⟩ := hs.full_error hlen hchunk
        exact .of_reaches_error 0 hu
      | ok r =>
        obtain ⟨mid, out⟩ := r
        have hpos := inCap_pos hp (modeOf i)
        obtain ⟨n, hrest⟩ := ih b.length (by rw [← hn, List.length_append]; omega) (lineCol w c out) mid b rfl
        refine ⟨(lineText w c out).length + n, fun s hs hparams hw hc more hack => ?_⟩
        subst hparams hw hc
        rw [← List.replicate_append_replicate, List.append_assoc] at hack
        obtain ⟨v, hreach, hv, hdone⟩ := hs.full_reaches hlen hchunk hack
        obtain ⟨t, hend, ht⟩ := hrest v hv hdone.params hdone.width hdone.col more hdone.acks
        exact ⟨t, hreach.trans hend, hdone.endsAs rfl ht⟩

/-- Settles O50: a session that has just started is at the beginning of a chunk, with nothing carried and COL 0. -/
theorem sessionMeetsFunctionalResult : Obligations.SessionMeetsFunctionalResult := by
  intro i s inp rest hw hturns hctrl hp he herr hil _ _ hcol hcnt hin
  obtain ⟨n, hn⟩ := session_ends i s.params hw (drainWidth i s) 0#32 [] inp rest
  refine ⟨n, fun k hk => ?_⟩
  have hdec : decode s.ctrl = .ok i := hctrl ▸ decode_encode i
  have hstart : ChunkStart i [] inp rest { s with acks := List.replicate k .ok } :=
    ⟨⟨hw, hturns, hdec⟩, hp, he, hil, hin, by simp [carriedGroup, hcnt], hcnt ▸ groupSymbols_pos _⟩
  have hack : List.replicate k OutAnswer.ok = List.replicate n .ok ++ List.replicate (k - n) .ok := by
    rw [List.replicate_append_replicate, Nat.add_sub_cancel' hk]
  obtain ⟨t, hreach, hends⟩ := hn _ hstart rfl rfl hcol _ hack
  obtain ⟨m, hm⟩ := hreach.exists_run
  refine ⟨m, t, hm, ?_⟩
  rw [← sessionResult_eq] at hends
  cases hr : sessionResult s.params.b16DecodeLowercase s.wrap i inp with
  | error k =>
    rw [hr] at hends
    exact hends
  | ok o =>
    rw [hr] at hends
    obtain ⟨hphase, hterr, hout, hinput⟩ := hends
    exact ⟨hphase, hterr.trans herr, hout, hinput⟩

end Sys2Proof.Machine
end
